-- ==== Sys2Proof/Word.lean ====
section
/-! DEFINITION. The words the manual treats as bits: bytes of the links, 16-bit sequence numbers and check words, 32-bit counts, and the sets that are carried as bits (spec 10, R209). -/

namespace Sys2Proof

/-- One byte of a message, a record or a gauge frame (R208). -/
abbrev Byte := BitVec 8

/-- A sequence number (R44, R144) or a check word (R97). -/
abbrev Word16 := BitVec 16

/-- A channel count: signed, and it wraps (R8). -/
abbrev Count := BitVec 32

/-- A coordinate, a length or a distance in track units. It is a number, not a bit pattern: the manual works with it
"as a signed number without loss" (R180), and only a report gives it four bytes (R209). (`omega` reads such numbers once `simp only [Coord] at *` has
named them as natural numbers.) -/
abbrev Coord := Nat

end Sys2Proof
end

