-- ==== Sys2Proof/Config.lean ====
section
/-! DEFINITION. What the part fixes (sizes of its tables, limits of its fields) and the free values the manual leaves open. -/

namespace Sys2Proof.Config

/-- Zone slots of the Track Store (R44). -/
def zoneSlots : Nat := 1024

/-- The reserve: the last zone slots, kept for mandatory claims (R46). -/
def reserve : Nat := 16

/-- Piece slots of the Piece Table (R144). -/
def pieceSlots : Nat := 32

/-- Entries of a report queue (R76). -/
def reportQueue : Nat := 16

/-- Cut numbers the transit queue holds (R151). -/
def transitQueue : Nat := 8

/-- Entries of the billet table (R41). -/
def billetTable : Nat := 32

/-- Findings of a zone (R52). -/
def findings : Nat := 4

/-- Greatest coordinate (R11). -/
def coordMax : Nat := 4294967295

/-- Greatest cut number a saw cut may take; 65,535 is kept for the TAIL set (R127). -/
def sawCutMax : Nat := 65534

/-- Piece records in one block of LIST-ARRIVED (R162). -/
def arrivedBlock : Nat := 8

/-- FREE VALUE (log 6): the n-th open choice of the part, where the manual lets it take any member of a set
(the slot a take receives, R45 and R144). Nothing constrains it. -/
opaque freeChoice : Nat → Nat

/-- FREE VALUE (log 10): what four bytes show of a number of track units that they cannot hold (R209 gives a TU value
four bytes, unsigned, and says nothing of a value outside them). -/
opaque unstatedTU : Int → BitVec 32

end Sys2Proof.Config
end

