-- ==== Sys2Proof/Syntax.lean ====
section
/-! DEFINITION. The named values of the manual, the records that commands carry, and the commands themselves: one constructor of Instr for each row of spec/opcode_table.json. -/

namespace Sys2Proof

/-- A strand, 0 to 3. -/
abbrev Strand := Fin 4

/-- The two travel channels (R3), and with them the two pullers (R11). -/
inductive Chan | a | b
  deriving DecidableEq, Repr

/-- The three gauge stations and their links (04). -/
inductive Gauge | g0 | g1 | g2
  deriving DecidableEq, Repr

/-- The eight conditions of a zone (R49). -/
inductive Cond | nose | tailBand | weld | stop | dim | surf | held | gap
  deriving DecidableEq, Repr

/-- Measured severity of a zone, and of a claim (R49). -/
inductive Severity | none | review | scrap
  deriving DecidableEq, Repr

/-- Disposition of a zone, and an override (R49, R51). -/
inductive Disp | accept | review | scrap
  deriving DecidableEq, Repr

/-- Severity of a feature (R96, field 20). -/
inductive FeatureSeverity | review | scrap
  deriving DecidableEq, Repr

/-- Severity of a flaw class (R96, field 21). -/
inductive FlawSeverity | ignore | review | scrap
  deriving DecidableEq, Repr

/-- The dimensional gauge that measures a feature (R96, field 19). -/
inductive DimStation | g0 | g2
  deriving DecidableEq, Repr

/-- A set of conditions, as the bits of R209: bit 0 GAP up to bit 7 END. -/
abbrev CondSet := BitVec 8

/-- A set of dispositions: bit 0 ACCEPT, bit 1 REVIEW, bit 2 SCRAP (R209). -/
abbrev DispSet := BitVec 3

/-- A set of strands: bit s is strand s (R209). -/
abbrev StrandSet := BitVec 4

/-- A set of alert causes: bit 0 REQUEST-DONE to bit 12 SOFT1 (R208). -/
abbrev AlertSet := BitVec 13

/-- The thirteen alert causes, in the order of the table of R206. -/
inductive AlertCause
  | requestDone | arrived | amended | sawFault | poolLow | coarse | orphan | encoder | blind | runState | stray | soft0 | soft1
  deriving DecidableEq, Repr

/-- A zone key or a piece key: slot and sequence number (R44, R144). -/
structure Key where
  slot : Nat
  seq : Word16
  deriving DecidableEq, Repr

/-- A finding of a zone (R52): station, feature or flaw class, signed deviation in µm, and where it was found. -/
structure Finding where
  station : Gauge
  item : Nat
  dev : Int
  loc : Coord
  deriving DecidableEq, Repr

/-- What a condition claim does to the condition set of the zones it marks: it gives them a condition (R64), or it
removes HELD (R68, the one claim that removes a condition). -/
inductive ClaimAction
  | add (c : Cond)
  | removeHeld
  deriving DecidableEq, Repr

/-- A condition claim (section 3.4): a strand, a range [x1, x2), the change, a severity, an optional finding, and
whether its takes are mandatory. -/
structure Claim where
  strand : Strand
  x1 : Coord
  x2 : Coord
  action : ClaimAction
  severity : Severity
  finding : Option Finding
  mandatory : Bool
  deriving DecidableEq, Repr

/-- Who handed a claim that the Track Store has not yet taken (R59, R78). -/
inductive Sender
  | runControl
  | sweep
  | link (g : Gauge)
  deriving DecidableEq, Repr

/-- Which claim a CONDITION_CLAIM takes: one that reaches the Track Store with the command, or the oldest one that a
sender has handed and the Track Store has not taken (log 4). -/
inductive ClaimSource
  | arriving (c : Claim)
  | handed (by_ : Sender)
  deriving DecidableEq, Repr

/-- When the Track Store takes the condition claims an event hands it (R59, log 4): within that event, or later, so that
claims from other blocks may be taken between. -/
inductive Taking | atOnce | later
  deriving DecidableEq, Repr

/-- The order of the two parts of a hold or a release (R67, R191): either may be taken first. -/
inductive SpanOrder | claimFirst | entryFirst
  deriving DecidableEq, Repr

/-- The order of the two claims on the slots a free gives back (R157): either may be taken first. -/
inductive FreeOrder | releaseFirst | sawFirst
  deriving DecidableEq, Repr

/-- An address as it is sent (R179, R208): the fields of its mode, with values outside their ranges possible, so that
they can be refused. `unknown` is a mode byte that names no mode. -/
inductive Address
  | abs (coord : Nat)
  | station (code : Nat) (offset : Int)
  | billet (ordinal : Nat) (offset : Nat)
  | unknown (mode : Nat)
  deriving DecidableEq, Repr

/-- Where a WALK-ZONES starts (R189): an address, a continuation, or a start kind that names neither. -/
inductive WalkStart
  | address (a : Address)
  | continue_ (q : Nat)
  | unknown (kind : Nat)
  deriving DecidableEq, Repr

/-- One span record of HOLD-SPANS (R194, R208). -/
structure Span where
  strand : Nat
  first : Address
  second : Address
  deriving DecidableEq, Repr

/-- A line configuration as SET-LINE sends it (R20): each field a number as it stands in the request block, named values
as their codes (R209), so that a value outside its range can be sent. -/
structure LineRecord where
  dG0 : Nat
  dG1 : Nat
  dG2 : Nat
  dMK : Nat
  dSAW : Nat
  latG0 : Nat
  latG1 : Nat
  latG2 : Nat
  pullerMode : Nat
  aEnable : Nat
  aMode : Nat
  aScale : Nat
  bEnable : Nat
  bMode : Nat
  bScale : Nat
  gapLimit : Nat
  cutTimeout : Nat
  lead : Nat
  minMark : Nat
  minGap : Nat
  idlePolicy : Nat
  markerEnables : Nat
  deriving DecidableEq, Repr

/-- A defined feature of a template (R96, fields 16 to 20). -/
structure Feature where
  nominal : Int
  lower : Nat
  upper : Nat
  station : DimStation
  severity : FeatureSeverity
  deriving DecidableEq, Repr

/-- A die template (R96). The feature count, field 3, is the length of `features`. -/
structure Template where
  dieNumber : Nat
  strandCount : Nat
  features : List Feature
  noseLen : Nat
  weldLen : Nat
  stopBefore : Nat
  stopAfter : Nat
  endScrap : Nat
  target : Nat
  minLen : Nat
  maxLen : Nat
  cutOut : CondSet
  markSet : DispSet
  nOut : Nat
  mIn : Nat
  flaws : Vector FlawSeverity 8
  check : Word16
  deriving DecidableEq, Repr

/-- What non-volatile storage reads back as at a completion (R104, R106, R112; log 7): `none`, as it was written and is
held; `some t`, as `t` instead. -/
abbrev ReadBack := Option Template

/-- The commands: one constructor for each row of spec/opcode_table.json, in the table's order. -/
inductive Instr
  | poll
  | fetch
  | put (body : List Byte)
  | abort
  | resetPort
  | setLine (r : LineRecord)
  | readLine
  | readChannels
  | startRun
  | noBilletChange
  | endRun (t : Taking)
  | abandonRun
  | readBillets
  | readPool
  | readInspection (strand : Nat)
  | editTemplate (field : Nat) (index : Nat) (value : Int)
  | loadTemplate (slot : Nat)
  | loadCompletion (rb : ReadBack)
  | storeTemplate (slot : Nat)
  | storeCompletion (rb : ReadBack)
  | readTemplate (target : Nat)
  | libraryReadCompletion (rb : ReadBack)
  | readLibrary
  | commitTemplate
  | unlock (code : Nat) (bytes : List Byte)
  | setCode (code : Nat) (action : Nat) (bytes : List Byte) (level : Nat)
  | codeWriteCompletion (verified : Bool)
  | lock
  | freezeCodes
  | readProtection
  | sawHold
  | sawRelease
  | clearSawFault
  | readSaw
  | retirePiece (key : Key) (order : FreeOrder)
  | removeCutSet (number : Nat) (order : FreeOrder)
  | readPieceByKey (key : Key)
  | readPieceByCoordinate (strand : Nat) (addr : Address)
  | listArrived
  | readTransit
  | markTest (strand : Nat) (isolate : Nat) (level : Nat)
  | readMarkers
  | findZone (strand : Nat) (addr : Address)
  | readZones (strand : Nat) (addr : Address) (count : Nat) (block : Nat)
  | walkZones (strand : Nat) (start : WalkStart)
  | holdSpan (strand : Nat) (first : Address) (second : Address) (order : SpanOrder)
  | releaseHold (strand : Nat) (first : Address) (second : Address) (order : SpanOrder)
  | overrideZone (key : Key) (value : Nat)
  | holdSpans (count : Nat) (block : Nat)
  | holdSpansSpanApply (order : SpanOrder)
  | readFault
  | clearFault
  | ackAlerts (causes : AlertSet)
  | raiseSoft (cause : Nat)
  | setAlertMask (mask : AlertSet) (enable : Bool)
  | phaseSample (ch : Chan) (p1 : Bool) (p2 : Bool)
  | handover
  | cutDone
  | pressRunRising (t : Taking)
  | pressRunFalling
  | sawReadyRising
  | sawReadyFalling
  | endEye
  | hardwareReset
  | reportArrival (g : Gauge) (frame : List Byte)
  | gaugeFramingError (g : Gauge)
  | gaugeFrameExpiry (g : Gauge)
  | reportEvaluation (g : Gauge) (t : Taking)
  | futureConditionExpiry
  | coverageSweep (t : Taking)
  | goThreshold
  | cutTimeoutExpiry
  | windowRefill
  | conditionClaim (src : ClaimSource)
  | boundary (strand : Strand) (b : Coord) (conds : CondSet) (billet : Nat) (generation : Nat) (commit : Bool)
  | gaugeFrameStart (g : Gauge)
  | messageCheckFailure (frame : List Byte)
  | unknownRequestName (block : List Byte)
  deriving DecidableEq, Repr

end Sys2Proof
end

