-- ==== Sys2Proof/Decode.lean ====
section
/-! DEFINITION. Command words: spec/opcode_table.json gives no row any bits, so no word spells a command. (The bytes of a REQUEST are read by Sys2Proof/Machine/Wire.lean.) -/

namespace Sys2Proof

/-- The command that a word of `nbits` bits spells by the table's bits: the table gives its 78 rows none, so none. -/
def decodeTableWord (nbits w : Nat) : Option Instr :=
  match nbits, w with
  | _, _ => none

end Sys2Proof
end

