-- ==== Sys2Proof/Machine/State.lean ====
section
/-! DEFINITION. The state of the part, block by block, as plain data, and the state after hardware reset of a part not yet set up. -/

namespace Sys2Proof.Machine

open Sys2Proof

/-! ### Travel Counter Unit and line configuration (01) -/

/-- How a channel decodes its phases (R3). -/
inductive ChanMode | x1 | x2 | x4 | countDir
  deriving DecidableEq, Repr

/-- Direction of the latest count change (R3). -/
inductive Dir | up | down
  deriving DecidableEq, Repr

/-- Levels of the two phases of a channel. -/
structure Phases where
  p1 : Bool
  p2 : Bool
  deriving DecidableEq, Repr

/-- A travel channel: three settings and seven items of state (R3). -/
structure Channel where
  enable : Bool
  mode : ChanMode
  scale : Nat
  count : Count
  remainder : Nat
  dir : Dir
  illegal : Bool
  capture : Count
  capturePrev : Count
  last : Phases
  deriving DecidableEq, Repr

/-- What a disabled channel holds (R3), with its settings. -/
def Channel.idle (enable : Bool) (mode : ChanMode) (scale : Nat) (last : Phases) : Channel :=
  { enable := enable, mode := mode, scale := scale, count := 0, remainder := 0, dir := .up, illegal := false,
    capture := 0, capturePrev := 0, last := last }

/-- Travel Counter Unit (R3, R11, R13). -/
structure Tcu where
  chA : Channel
  chB : Channel
  puller : Chan
  L : Coord
  Lhw : Coord
  Lbase : Coord
  refCount : Count
  deriving DecidableEq, Repr

/-- One puller, or two in turn (R20, field 9). -/
inductive PullerMode | single | double
  deriving DecidableEq, Repr

/-- Marker lines in IDLE, ARMED and DEAD (R20, field 21). -/
inductive IdlePolicy | off | retain
  deriving DecidableEq, Repr

/-- The line configuration (R20). The settings of a channel are named here and in the channel, which takes them at
SET-LINE (R22). -/
structure LineConfig where
  dG0 : Nat
  dG1 : Nat
  dG2 : Nat
  dMK : Nat
  dSAW : Nat
  latG0 : Nat
  latG1 : Nat
  latG2 : Nat
  pullerMode : PullerMode
  aEnable : Bool
  aMode : ChanMode
  aScale : Nat
  bEnable : Bool
  bMode : ChanMode
  bScale : Nat
  gapLimit : Nat
  cutTimeout : Nat
  lead : Nat
  minMark : Nat
  minGap : Nat
  idlePolicy : IdlePolicy
  markerEnables : StrandSet
  deriving DecidableEq, Repr

/-- The invalid configuration: every field reads 0, except the channel settings (R20, R3). -/
def LineConfig.invalid : LineConfig :=
  { dG0 := 0, dG1 := 0, dG2 := 0, dMK := 0, dSAW := 0, latG0 := 0, latG1 := 0, latG2 := 0, pullerMode := .single,
    aEnable := false, aMode := .x4, aScale := 1024, bEnable := false, bMode := .x4, bScale := 1024, gapLimit := 0,
    cutTimeout := 0, lead := 0, minMark := 0, minGap := 0, idlePolicy := .off, markerEnables := 0 }

/-- The line configuration with its validity (R20). -/
structure Line where
  valid : Bool
  cfg : LineConfig
  deriving DecidableEq, Repr

/-- The travel events that the four blocks have not yet taken (R14): for each, the L it last took, while one waits. -/
structure Travel where
  rc : Option Coord
  iu : Option Coord
  cps : Option Coord
  swm : Option Coord
  deriving DecidableEq, Repr

/-! ### Run Control (02) -/

/-- The five states of the die run (R25). -/
inductive RunState | idle | armed | running | dead | draining
  deriving DecidableEq, Repr

/-- The future-condition list of a strand: a set of entries keyed by kind, at most one of each (R33); for each kind the
end of its live entry. -/
structure FutureList where
  nose : Option Coord
  weld : Option Coord
  stop : Option Coord
  held : Option Coord
  deriving DecidableEq, Repr

/-- No live entry. -/
def FutureList.empty : FutureList := { nose := none, weld := none, stop := none, held := none }

/-- An entry of the billet table (R41). -/
structure Billet where
  ordinal : Nat
  start : Coord
  stop : Option Coord
  noChangeStops : Bool
  deriving DecidableEq, Repr

/-- Run Control (R25, R30, R33, R38, R41). -/
structure Rc where
  run : RunState
  active : Nat
  future : Vector FutureList 4
  billets : List Billet
  deadNote : Bool
  tail : Option Coord
  tailReleased : Bool
  deriving DecidableEq, Repr

/-! ### Track Store (03) -/

/-- Where a zone stands, with its end and its piece (R49): an OPEN zone has no end, a CUT zone has a piece. -/
inductive ZonePlace
  | opened
  | closed (stop : Coord)
  | cut (stop : Coord) (piece : Key)
  deriving DecidableEq, Repr

/-- A zone record (R49). Disposition and kind are derived (R50, R51) and so not stored. -/
structure Zone where
  key : Key
  strand : Strand
  start : Coord
  place : ZonePlace
  conds : CondSet
  severity : Severity
  override : Option Disp
  billet : Nat
  generation : Nat
  findings : List Finding
  truncated : Bool
  deriving DecidableEq, Repr

/-- Track Store (R44, R45, R53, R54). Each zone record stands in the list it belongs to: the track of its strand, or the
zone list of its piece (State.pt). -/
structure Ts where
  free : List Nat
  seqs : Vector Word16 1024
  setAside : Nat
  tracks : Vector (List Zone) 4
  first : Vector Coord 4
  handed : List (Sender × Claim)
  deriving DecidableEq, Repr

/-! ### Piece Table (07) -/

/-- Verdict of a piece (R146). -/
inductive Verdict | prime | partialV | review | scrap
  deriving DecidableEq, Repr

/-- Whether a piece has been seen at the end of the runout (R145). -/
inductive PieceState | transit | arrived
  deriving DecidableEq, Repr

/-- A piece record (R145). Its length, tail less head, is derived. The verdict is kept, since a change of it after
arrival is an event (R155). -/
structure Piece where
  key : Key
  strand : Strand
  cutNumber : Nat
  head : Coord
  tail : Coord
  zones : List Zone
  verdict : Verdict
  state : PieceState
  unplanned : Bool
  late : Bool
  shifted : Bool
  tailFlag : Bool
  amended : Bool
  deriving DecidableEq, Repr

/-- Piece Table (R144, R151, R152). The pieces stand in order of birth. -/
structure Pt where
  free : List Nat
  seqs : Vector Word16 32
  setAside : Nat
  pieces : List Piece
  queue : List Nat
  headMark : Bool
  deriving DecidableEq, Repr

/-! ### Inspection Unit (04) -/

/-- What a queued report reports (R74, R76). -/
inductive ReportKind
  | measure (strand : Strand) (feature : Fin 12) (value : Int)
  | flaw (strand : Strand) (cls : Fin 8) (extent : Nat)
  | blind
  | seeing
  deriving DecidableEq, Repr

/-- An entry of a report queue, with its tag (R76, R77). -/
structure Report where
  kind : ReportKind
  coord : Option Coord
  generation : Option Nat
  deriving DecidableEq, Repr

/-- The one-byte answer to a frame (R73). -/
inductive GaugeAnswer | taken | full | refused
  deriving DecidableEq, Repr

/-- What the Inspection Unit keeps for a gauge station and its link (R76, R86, R87, R210). -/
structure Link where
  queue : List Report
  blind : Option (Vector (Option Coord) 4)
  covered : Vector Coord 4
  frameOpen : Bool
  answer : Option GaugeAnswer
  deriving DecidableEq, Repr

/-- Whether a feature is within its band (R81). -/
inductive TrackerState | within | out
  deriving DecidableEq, Repr

/-- A deviation and the coordinate of its sample (R81, worst). -/
structure Worst where
  dev : Int
  loc : Coord
  deriving DecidableEq, Repr

/-- A tracker (R81). -/
structure Tracker where
  state : TrackerState
  generation : Option Nat
  outRun : Nat
  firstOut : Option Coord
  worst : Option Worst
  dimEnd : Option Coord
  inRun : Nat
  firstClose : Option Coord
  deriving DecidableEq, Repr

/-- The tracker of R81 after hardware reset. -/
def Tracker.fresh : Tracker :=
  { state := .within, generation := none, outRun := 0, firstOut := none, worst := none, dimEnd := none, inRun := 0,
    firstClose := none }

/-- Inspection Unit. -/
structure Iu where
  g0 : Link
  g1 : Link
  g2 : Link
  trackers : Vector (Vector Tracker 12) 4
  deriving DecidableEq, Repr

/-! ### Template Store (05) -/

/-- A template with its generation, as ACTIVE or PREVIOUS holds it (R101). -/
structure Governing where
  template : Template
  generation : Nat
  deriving DecidableEq, Repr

/-- Protection state (R114). -/
inductive Protection | unprotected | locked | opened
  deriving DecidableEq, Repr

/-- Level of protection (R114). -/
inductive Level | normal | strict
  deriving DecidableEq, Repr

/-- Template Store. A library slot is VALID exactly when it holds a template (R102); the directory of R113 is a view of
the library. -/
structure Tps where
  work : Option Template
  active : Option Governing
  previous : Option Governing
  commitCoord : Option Coord
  late : StrandSet
  library : Vector (Option Template) 16
  lineCode : Option (List Byte)
  qualityCode : Option (List Byte)
  level : Level
  protection : Protection
  attempts : Nat
  frozen : Bool
  deviceFault : Bool
  deriving DecidableEq, Repr

/-! ### Cut Planner and Saw Interface (06) -/

/-- The six states of the saw (R119). -/
inductive SawState | ready | planned | go | return_ | held | fault
  deriving DecidableEq, Repr

/-- Why a PLANNED saw past its threshold has no GO (R120). -/
inductive WaitReason | none | saw | pieces | pool
  deriving DecidableEq, Repr

/-- Why a READY saw holds no plan (R120, R127). -/
inductive NoPlanReason | none | tail | count
  deriving DecidableEq, Repr

/-- Cut Planner and Saw Interface (R120). The reservation is the two set-aside counts of the Track Store and the Piece
Table; SAW-GO is asserted exactly while the saw is in GO (R119). -/
structure Cps where
  saw : SawState
  plan : Option Coord
  planLate : Bool
  wait : WaitReason
  noPlan : NoPlanReason
  holdNote : Bool
  timeout : Option Nat
  cutCounter : Nat
  lastCut : Option (Coord × Nat)
  latestCapture : Option Coord
  deriving DecidableEq, Repr

/-! ### Station Windows and Markers (08) -/

/-- The second record of a window: start, key and mark flag of the zone that follows (R164). -/
structure NextZone where
  start : Coord
  key : Key
  marked : Bool
  deriving DecidableEq, Repr

/-- A window: VALID with its copy and its second record, LAPSED or EMPTY (R164). -/
inductive Window
  | valid (copy : Zone) (next : Option NextZone)
  | lapsed
  | empty
  deriving DecidableEq, Repr

/-- A marker line: level, on-point and isolation (R171, R176). -/
structure MarkLine where
  on : Bool
  onPoint : Option Coord
  isolated : Bool
  deriving DecidableEq, Repr

/-- Station Windows and Markers. -/
structure Swm where
  windows : Vector Window 4
  lines : Vector MarkLine 4
  deriving DecidableEq, Repr

/-! ### Line Port (10) -/

/-- The requests of the catalogue (section 10.3). `other` is a name, as its sixteen bytes, that the catalogue lacks. -/
inductive ReqName
  | setLine | readLine | readChannels | startRun | noBilletChange | endRun | abandonRun | readBillets | readPool
  | readInspection | editTemplate | loadTemplate | storeTemplate | readTemplate | readLibrary | commitTemplate | unlock
  | setCode | lock | freezeCodes | readProtection | sawHold | sawRelease | clearSawFault | readSaw | retirePiece
  | removeCutSet | readPiece | listArrived | readTransit | markTest | readMarkers | findZone | readZones | walkZones
  | holdSpan | releaseHold | override | holdSpans | readFault | clearFault | ackAlerts | raiseSoft | setAlertMask
  | other (name : List Byte)
  deriving DecidableEq, Repr

/-- The ten error codes, in the order of their encoding (R203, R208). -/
inductive ErrCode
  | none | aborted | range | notFound | stale | locked | inUse | full | check | deviceFault
  deriving DecidableEq, Repr

/-- The failing item of a fault context, with its kind (R204). -/
inductive FaultItem
  | none
  | key (k : Key)
  | coordinate (x : Coord)
  | span (index : Nat)
  | field (number : Nat) (index : Nat)
  | slot (n : Nat)
  | cut (n : Nat)
  deriving DecidableEq, Repr

/-- The fault context (R204). -/
structure FaultContext where
  request : ReqName
  error : ErrCode
  item : FaultItem
  done : Nat
  overrun : Bool
  deriving DecidableEq, Repr

/-- The result record (R199): request name, error code, and the fields that the request's rule says the reply carries. -/
structure ResultRecord where
  name : ReqName
  error : ErrCode
  fields : List Byte
  deriving DecidableEq, Repr

/-- What SET-CODE has begun to write (R116). -/
inductive CodeWrite
  | setLine (bytes : List Byte) (level : Level)
  | setQuality (bytes : List Byte)
  | removeLine
  | removeQuality
  deriving DecidableEq, Repr

/-- The operations that take time (R197). -/
inductive TimedOp
  | store (slot : Fin 16)
  | load (slot : Fin 16)
  | readSlot (slot : Fin 16)
  | codeWrite (w : CodeWrite)
  deriving DecidableEq, Repr

/-- What a READ-ZONES holds for as long as it lasts (R185). -/
structure ZoneRead where
  strand : Strand
  count : Nat
  block : Nat
  q : Coord
  delivered : Nat
  deriving DecidableEq, Repr

/-- A request that has blocks for the host to fetch (R198). -/
inductive OutCourse
  | snapshot (name : ReqName)
  | zones (r : ZoneRead)
  | arrived (last : Option (Nat × Nat)) (delivered : Nat)
  deriving DecidableEq, Repr

/-- What a HOLD-SPANS holds for as long as it lasts (R194): span count, BLOCK, the index of the next span, and the spans
of the put block that have not been applied (R195). -/
structure SpanPut where
  count : Nat
  block : Nat
  next : Nat
  waiting : List Span
  deriving DecidableEq, Repr

/-- The four port states (R197), each with what the request in progress keeps while it lasts. -/
inductive PortState
  | ready
  | busy (op : TimedOp)
  | dataOut (c : OutCourse)
  | dataIn (p : SpanPut)
  deriving DecidableEq, Repr

/-- The state code a REPLY carries (R208). -/
inductive PortCode | ready | busy | dataOut | dataIn
  deriving DecidableEq, Repr

/-- The REPLY to the latest message (R196, R208). -/
structure Reply where
  answer : ErrCode
  port : PortCode
  deviceFault : Bool
  lastMark : Bool
  contextHeld : Bool
  overrun : Bool
  alert : Bool
  enable : Bool
  lastError : ErrCode
  pendingSet : AlertSet
  data : List Byte
  deriving DecidableEq, Repr

/-- The alert items (R206). -/
structure Alerts where
  pendingSet : AlertSet
  maskSet : AlertSet
  enable : Bool
  deriving DecidableEq, Repr

/-- Line Port (R197, R199, R204, R206). `request` is the request in progress with its request block, as the command that the
block was read as (log 41); none in READY. -/
structure Lp where
  port : PortState
  request : Option Instr
  buffer : List Byte
  lastError : ErrCode
  result : Option ResultRecord
  fault : Option FaultContext
  alerts : Alerts
  reply : Option Reply
  deriving DecidableEq, Repr

/-! ### Pins, free values, and the whole -/

/-- Levels of the inputs whose level a rule reads: the phases of both channels (R22), PRESS-RUN (R25), SAW-READY (R128). -/
structure Pins where
  phasesA : Phases
  phasesB : Phases
  pressRun : Bool
  sawReady : Bool
  deriving DecidableEq, Repr

/-- The MODEL's own field, not the manual's (log 6): the choices the manual leaves to the part. `script` holds choices
already settled, first to be used first; past it, the n-th choice is the free value `Config.freeChoice n`, and `drawn`
counts those. -/
structure Choice where
  script : List Nat
  drawn : Nat
  deriving DecidableEq, Repr

/-- The state of the part, with the queue of commands that wait, first in, first out (log 1). -/
structure State where
  tcu : Tcu
  line : Line
  travel : Travel
  rc : Rc
  ts : Ts
  pt : Pt
  iu : Iu
  tps : Tps
  cps : Cps
  swm : Swm
  lp : Lp
  pins : Pins
  choice : Choice
  pending : List Instr
  deriving DecidableEq, Repr

/-- Why a step stops with a fault: the manual gives none, so the type is empty (INVENTORY.md, Faults). -/
inductive Fault
  deriving DecidableEq, Repr

/-- Why a step has no meaning. -/
inductive Refusal
  /-- Raised by `exec` for a command of the table that has no meaning yet; safe. No arm raises it. -/
  | notModelled (mnemonic : String)
  deriving DecidableEq, Repr

/-- What a command answers. -/
abbrev Result := Host.Outcome State Fault Refusal

/-! ### Reset -/

/-- Both phases low. -/
def Phases.low : Phases := { p1 := false, p2 := false }

/-- The TCU after hardware reset (R3, R11, R13), with the levels that the phases have (log 9). -/
def Tcu.reset : Tcu :=
  { chA := Channel.idle false .x4 1024 Phases.low, chB := Channel.idle false .x4 1024 Phases.low, puller := .a,
    L := 0, Lhw := 0, Lbase := 0, refCount := 0 }

/-- The line configuration after hardware reset (R20). -/
def Line.reset : Line := { valid := false, cfg := LineConfig.invalid }

/-- No travel event waits. -/
def Travel.none : Travel := { rc := .none, iu := .none, cps := .none, swm := .none }

/-- Run Control after hardware reset (R25, R30, R33, R38, R41). -/
def Rc.reset : Rc :=
  { run := .idle, active := 0, future := Vector.replicate 4 FutureList.empty, billets := [], deadNote := false,
    tail := none, tailReleased := false }

/-- The Track Store after hardware reset (R44, R45). -/
def Ts.reset : Ts :=
  { free := List.range 1024, seqs := Vector.replicate 1024 0, setAside := 0, tracks := Vector.replicate 4 [],
    first := Vector.replicate 4 0, handed := [] }

/-- The Piece Table after hardware reset (R144). -/
def Pt.reset : Pt :=
  { free := List.range 32, seqs := Vector.replicate 32 0, setAside := 0, pieces := [], queue := [], headMark := false }

/-- A gauge link after hardware reset (R92); that no frame is open on it, and no answer sent, is the model's choice (log 9). -/
def Link.reset : Link :=
  { queue := [], blind := none, covered := Vector.replicate 4 0, frameOpen := false, answer := none }

/-- The Inspection Unit after hardware reset (R92). -/
def Iu.reset : Iu :=
  { g0 := Link.reset, g1 := Link.reset, g2 := Link.reset,
    trackers := Vector.replicate 4 (Vector.replicate 12 Tracker.fresh) }

/-- The Template Store of a part not yet set up, after hardware reset (R99, R101, R102, R110, R114). -/
def Tps.reset : Tps :=
  { work := none, active := none, previous := none, commitCoord := none, late := 0, library := Vector.replicate 16 none,
    lineCode := none, qualityCode := none, level := .normal, protection := .unprotected, attempts := 5, frozen := false,
    deviceFault := false }

/-- The Cut Planner after hardware reset (R120). -/
def Cps.reset : Cps :=
  { saw := .held, plan := none, planLate := false, wait := .none, noPlan := .none, holdNote := false, timeout := none,
    cutCounter := 0, lastCut := none, latestCapture := none }

/-- A marker line that is OFF and not isolated (R171). -/
def MarkLine.off : MarkLine := { on := false, onPoint := none, isolated := false }

/-- The Station Windows after hardware reset (R164, R171). -/
def Swm.reset : Swm := { windows := Vector.replicate 4 .empty, lines := Vector.replicate 4 MarkLine.off }

/-- The Line Port after hardware reset (R197, R204, R206). -/
def Lp.reset : Lp :=
  { port := .ready, request := none, buffer := [], lastError := .none, result := none, fault := none,
    alerts := { pendingSet := 0, maskSet := 0, enable := false }, reply := none }

/-- The part right after hardware reset, not yet set up, with its inputs low (log 9). -/
def State.reset : State :=
  { tcu := Tcu.reset, line := Line.reset, travel := Travel.none, rc := Rc.reset, ts := Ts.reset, pt := Pt.reset,
    iu := Iu.reset, tps := Tps.reset, cps := Cps.reset, swm := Swm.reset, lp := Lp.reset,
    pins := { phasesA := Phases.low, phasesB := Phases.low, pressRun := false, sawReady := false },
    choice := { script := [], drawn := 0 }, pending := [] }

end Sys2Proof.Machine
end

