-- ==== Sys2Proof/Machine/Flags.lean ====
section
/-! DEFINITION. Everything the manual derives from other state: sets and ranks of conditions, disposition and kind of a zone, verdict of a piece, the findings list, the ALERT line, SAW-GO, and the check on a template's lengths. -/

namespace Sys2Proof

open Machine

namespace Machine

/-! ### Sets of named values, as bits (R209) -/

/-- Bit of a condition in a condition set: bit 0 GAP up to bit 7 END, in reverse rank order (R209, R50). -/
def condBit : Cond → Nat
  | .gap => 0 | .held => 1 | .surf => 2 | .dim => 3 | .stop => 4 | .weld => 5 | .nose => 6 | .tailBand => 7

/-- The set of one condition. -/
def condMask (c : Cond) : CondSet := BitVec.ofNat 8 (2 ^ condBit c)

/-- Whether a set holds a condition. -/
def hasCond (s : CondSet) (c : Cond) : Bool := s.getLsbD (condBit c)

/-- The set with a condition joined to it. -/
def addCond (s : CondSet) (c : Cond) : CondSet := s ||| condMask c

/-- The set without a condition. -/
def dropCond (s : CondSet) (c : Cond) : CondSet := s &&& ~~~ condMask c

/-- Bit of a disposition (R209: in listing order). -/
def dispBit : Disp → Nat
  | .accept => 0 | .review => 1 | .scrap => 2

/-- Whether a set holds a disposition. -/
def hasDisp (s : DispSet) (d : Disp) : Bool := s.getLsbD (dispBit d)

/-- Bit of an alert cause (R208). -/
def causeBit : AlertCause → Nat
  | .requestDone => 0 | .arrived => 1 | .amended => 2 | .sawFault => 3 | .poolLow => 4 | .coarse => 5 | .orphan => 6
  | .encoder => 7 | .blind => 8 | .runState => 9 | .stray => 10 | .soft0 => 11 | .soft1 => 12

/-- The set of one cause. -/
def causeMask (c : AlertCause) : AlertSet := BitVec.ofNat 13 (2 ^ causeBit c)

/-- Whether a set holds a cause. -/
def hasCause (s : AlertSet) (c : AlertCause) : Bool := s.getLsbD (causeBit c)

/-- Whether a set of strands holds a strand. -/
def hasStrand (s : StrandSet) (st : Strand) : Bool := s.getLsbD st.val

/-- The set of one strand. -/
def strandMask (st : Strand) : StrandSet := BitVec.ofNat 4 (2 ^ st.val)

/-! ### Severity, disposition, kind, verdict -/

end Machine

/-- Rank of a severity: NONE below REVIEW below SCRAP (R51). -/
def Severity.rank : Severity → Nat
  | .none => 0 | .review => 1 | .scrap => 2

/-- The greater of two severities (R51). -/
def Severity.sup (a b : Severity) : Severity := if a.rank < b.rank then b else a

namespace Machine

/-- Disposition from conditions, severity and override (R51). -/
def dispositionOf (conds : CondSet) (sev : Severity) (ov : Option Disp) : Disp :=
  match ov with
  | some d => d
  | none =>
    if hasCond conds .tailBand || hasCond conds .nose || hasCond conds .weld || hasCond conds .stop || sev == .scrap then .scrap
    else if sev == .review || hasCond conds .held || hasCond conds .gap then .review
    else .accept

/-- Disposition of a zone (R51). -/
def Zone.disposition (z : Zone) : Disp := dispositionOf z.conds z.severity z.override

/-- The conditions in rank order, highest first (R50). -/
def condRank : List Cond := [.tailBand, .nose, .weld, .stop, .dim, .surf, .held, .gap]

/-- Kind of a zone: its highest-ranked condition, or SOUND, which is `none` (R50). -/
def Zone.kind (z : Zone) : Option Cond := condRank.find? (hasCond z.conds)

/-- End of a zone; absent while OPEN (R49). -/
def Zone.stop? (z : Zone) : Option Coord :=
  match z.place with
  | .opened => none
  | .closed e => some e
  | .cut e _ => some e

/-- Whether a zone is OPEN. -/
def Zone.isOpen (z : Zone) : Bool :=
  match z.place with
  | .opened => true
  | .closed _ => false
  | .cut _ _ => false

/-- The piece a zone belongs to; absent unless CUT (R49). -/
def Zone.piece? (z : Zone) : Option Key :=
  match z.place with
  | .opened => none
  | .closed _ => none
  | .cut _ p => some p

/-- Whether a coordinate lies in the zone, the open zone counting as reaching without limit. -/
def Zone.holds (z : Zone) (x : Coord) : Bool :=
  decide (z.start ≤ x) && (match z.stop? with | some e => decide (x < e) | none => true)

/-- Whether a coordinate lies strictly inside the zone, the open zone counting as reaching without limit (R62). -/
def Zone.strictlyInside (z : Zone) (y : Coord) : Bool :=
  decide (z.start < y) && (match z.stop? with | some e => decide (y < e) | none => true)

/-- Verdict from the zones of a piece (R146). -/
def verdictOf (zs : List Zone) : Verdict :=
  if zs.all (fun z => z.disposition != .accept) then .scrap
  else if zs.any (fun z => z.disposition == .review) then .review
  else if zs.any (fun z => z.disposition == .scrap) then .partialV
  else .prime

/-- Length of a piece: tail less head (R145). -/
def Piece.length (p : Piece) : Nat := p.tail - p.head

/-! ### The findings list (R52) -/

end Machine

/-- Whether two findings share a station and a feature or flaw class (R52). -/
def Finding.sameItem (f g : Finding) : Bool := f.station == g.station && f.item == g.item

namespace Machine

/-- Replace the first entry of f's station and feature or class, when f's absolute deviation is greater (R52, first case). -/
def replaceSame (f : Finding) : List Finding → List Finding
  | [] => []
  | g :: gs =>
    if f.sameItem g then (if g.dev.natAbs < f.dev.natAbs then f :: gs else g :: gs) else g :: replaceSame f gs

/-- The smallest absolute deviation of a list that begins with `m` (R52, third case). -/
def smallestDev (m : Nat) : List Finding → Nat
  | [] => m
  | g :: gs => smallestDev (min m g.dev.natAbs) gs

/-- Put f in the place of the earliest entry whose absolute deviation is `m` (R52, third case). -/
def displace (f : Finding) (m : Nat) : List Finding → List Finding
  | [] => []
  | g :: gs => if g.dev.natAbs == m then f :: gs else g :: displace f m gs

/-- The replacement rule (R52): the list with f added, and whether a finding was dropped or displaced. -/
def addFinding (f : Finding) (fs : List Finding) : List Finding × Bool :=
  if fs.any (f.sameItem ·) then (replaceSame f fs, false)
  else if fs.length < Config.findings then (fs ++ [f], false)
  else
    match fs with
    | [] => ([f], false)
    | g :: gs =>
      let m := smallestDev g.dev.natAbs gs
      if m < f.dev.natAbs then (displace f m fs, true) else (fs, true)

/-- A zone with a finding added by the replacement rule (R52). -/
def Zone.addFinding (z : Zone) (f : Finding) : Zone :=
  { z with findings := (Machine.addFinding f z.findings).1, truncated := z.truncated || (Machine.addFinding f z.findings).2 }

/-! ### Future-condition list (R33) -/

/-- The conditions of all live entries (R33). -/
def FutureList.conds (f : FutureList) : CondSet :=
  (if f.nose.isSome then condMask .nose else 0) ||| (if f.weld.isSome then condMask .weld else 0)
    ||| (if f.stop.isSome then condMask .stop else 0) ||| (if f.held.isSome then condMask .held else 0)

/-- The end of the live entry of a kind; only NOSE, WELD, STOP and HELD have entries (R33). -/
def FutureList.end? (f : FutureList) : Cond → Option Coord
  | .nose => f.nose
  | .weld => f.weld
  | .stop => f.stop
  | .held => f.held
  | .tailBand => none
  | .dim => none
  | .surf => none
  | .gap => none

/-- Ends of the live entries. -/
def FutureList.ends (f : FutureList) : List Coord := f.nose.toList ++ f.weld.toList ++ f.stop.toList ++ f.held.toList

/-- An entry made or extended: its end becomes the greater of its own and the new one (R33). -/
def raiseEnd (o : Option Coord) (e : Coord) : Option Coord :=
  match o with
  | none => some e
  | some x => some (max x e)

/-- Remove an entry that ends at e (R34). -/
def expireEnd (o : Option Coord) (e : Coord) : Option Coord :=
  match o with
  | none => none
  | some x => if x = e then none else some x

/-- The list without the entries that end at e (R34). -/
def FutureList.expire (f : FutureList) (e : Coord) : FutureList :=
  { nose := expireEnd f.nose e, weld := expireEnd f.weld e, stop := expireEnd f.stop e, held := expireEnd f.held e }

/-! ### Templates (R98) -/

end Machine

/-- The lengths stand in the order m ≤ T ≤ Mx (R98). -/
def Template.inOrder (t : Template) : Bool := decide (t.minLen ≤ t.target) && decide (t.target ≤ t.maxLen)

/-- The field number a failed validity check names: 10 where m is above T, otherwise 11 (R98). -/
def Template.badField (t : Template) : Nat := if t.target < t.minLen then 10 else 11

/-- The default template, with its check word still to be computed (R99). -/
def Template.defaults : Template :=
  { dieNumber := 0, strandCount := 1, features := [], noseLen := 0, weldLen := 0, stopBefore := 0, stopAfter := 0,
    endScrap := 0, target := 60000, minLen := 5000, maxLen := 120000, cutOut := 0, markSet := 4#3, nOut := 3, mIn := 3,
    flaws := Vector.replicate 8 .ignore, check := 0 }

/-- A feature added by raising the feature count (R100). -/
def Feature.first : Feature := { nominal := 0, lower := 0, upper := 0, station := .g0, severity := .review }

/-- Severity of a DIM claim for a feature (R83). -/
def FeatureSeverity.severity : FeatureSeverity → Severity
  | .review => .review
  | .scrap => .scrap

/-- The gauge of a dimensional station. -/
def DimStation.gauge : DimStation → Gauge
  | .g0 => .g0
  | .g2 => .g2

namespace Machine

/-! ### Lines out -/

/-- ALERT is asserted exactly when the global enable is set and some pending cause is unmasked (R206). -/
def Alerts.line (a : Alerts) : Bool := a.enable && decide (a.pendingSet &&& ~~~ a.maskSet ≠ 0)

/-- SAW-GO is asserted while the saw is in GO (R119). -/
def Cps.sawGo (c : Cps) : Bool := c.saw == .go

/-- The state code of a port state (R208). -/
def PortState.code : PortState → PortCode
  | .ready => .ready
  | .busy _ => .busy
  | .dataOut _ => .dataOut
  | .dataIn _ => .dataIn

/-- Whether the port is READY. -/
def PortState.isReady : PortState → Bool
  | .ready => true
  | .busy _ => false
  | .dataOut _ => false
  | .dataIn _ => false

end Machine

end Sys2Proof
end

