-- ==== Sys2Proof/Machine/Encode.lean ====
section
/-! DEFINITION. Bytes: the CRC-16 of R208, the encodings of R209 field by field, and the zone, piece and template records of section 10.6. -/

namespace Sys2Proof

open Machine

namespace Machine

/-! ### Numbers, high byte first (R208, R209) -/

/-- One byte. -/
def enc1 (n : Nat) : List Byte := [BitVec.ofNat 8 n]

/-- Two bytes, unsigned. -/
def enc2 (n : Nat) : List Byte := [BitVec.ofNat 8 (n / 256), BitVec.ofNat 8 n]

/-- A 32-bit word, high byte first. -/
def encWord (w : BitVec 32) : List Byte :=
  [w.extractLsb' 24 8, w.extractLsb' 16 8, w.extractLsb' 8 8, w.extractLsb' 0 8]

/-- A TU value: 4 bytes, unsigned; of a value outside them the manual says nothing (log 10). -/
def encTU (v : Int) : List Byte :=
  encWord (if 0 ≤ v ∧ v ≤ 4294967295 then BitVec.ofInt 32 v else Config.unstatedTU v)

/-- A deviation in µm or a nominal: 4 bytes, signed. -/
def encSigned (v : Int) : List Byte := encWord (BitVec.ofInt 32 v)

/-- A key: 2 bytes slot, 2 bytes sequence. -/
def encKey (k : Key) : List Byte := enc2 k.slot ++ enc2 k.seq.toNat

/-- A flag: one bit of one byte (log 11). -/
def encFlag (b : Bool) : List Byte := [if b then 1#8 else 0#8]

/-- `n` bytes of 0. -/
def zeros (n : Nat) : List Byte := List.replicate n 0#8

/-- An optional item of `n` bytes: presence byte, then its bytes, 0 where absent. -/
def encOpt {α : Type} (n : Nat) (e : α → List Byte) : Option α → List Byte
  | some a => [1#8] ++ e a
  | none => [0#8] ++ zeros n

/-- An optional coordinate. -/
def encOptTU (o : Option Coord) : List Byte := encOpt 4 (fun (x : Coord) => encTU x) o

/-! ### Numbers read back -/

/-- The unsigned number that bytes carry, high byte first. -/
def readNat (bs : List Byte) : Nat := bs.foldl (fun n b => n * 256 + b.toNat) 0

/-- The signed number that three bytes carry (R208). -/
def readSigned24 (bs : List Byte) : Int := (BitVec.ofNat 24 (readNat bs)).toInt

/-- The signed number that four bytes carry (R209). -/
def readSigned32 (bs : List Byte) : Int := (BitVec.ofNat 32 (readNat bs)).toInt

/-! ### CRC-16: polynomial 0x1021, initial value 0xFFFF, highest bit first, no final inversion (R208) -/

/-- One bit of the CRC. -/
def crcBit (c : Word16) : Word16 := if c.msb then (c <<< 1) ^^^ 0x1021#16 else c <<< 1

/-- One byte of the CRC. -/
def crcByte (c : Word16) (b : Byte) : Word16 :=
  let c0 := c ^^^ (b.zeroExtend 16 <<< 8)
  crcBit (crcBit (crcBit (crcBit (crcBit (crcBit (crcBit (crcBit c0)))))))

/-- The CRC-16 of a run of bytes. -/
def crc16 (bs : List Byte) : Word16 := bs.foldl crcByte 0xFFFF#16

/-! ### Named values, numbered in listing order (R209) -/

end Machine

def Chan.code : Chan → Nat | .a => 0 | .b => 1

namespace Machine

def ChanMode.code : ChanMode → Nat | .x1 => 0 | .x2 => 1 | .x4 => 2 | .countDir => 3
def Dir.code : Dir → Nat | .up => 0 | .down => 1
def PullerMode.code : PullerMode → Nat | .single => 0 | .double => 1
def IdlePolicy.code : IdlePolicy → Nat | .off => 0 | .retain => 1
/-- An item listed as "on, off" or "ON, OFF": on is 0, off is 1 (log 11). -/
def onOffCode (b : Bool) : Nat := if b then 0 else 1
def RunState.code : RunState → Nat | .idle => 0 | .armed => 1 | .running => 2 | .dead => 3 | .draining => 4

end Machine

def Gauge.code : Gauge → Nat | .g0 => 0 | .g1 => 1 | .g2 => 2
def Severity.code : Severity → Nat | .none => 0 | .review => 1 | .scrap => 2
def Disp.code : Disp → Nat | .accept => 0 | .review => 1 | .scrap => 2
def FeatureSeverity.code : FeatureSeverity → Nat | .review => 0 | .scrap => 1
def FlawSeverity.code : FlawSeverity → Nat | .ignore => 0 | .review => 1 | .scrap => 2
def DimStation.code : DimStation → Nat | .g0 => 0 | .g2 => 1

namespace Machine

def Verdict.code : Verdict → Nat | .prime => 0 | .partialV => 1 | .review => 2 | .scrap => 3
def PieceState.code : PieceState → Nat | .transit => 0 | .arrived => 1
def TrackerState.code : TrackerState → Nat | .within => 0 | .out => 1
def Protection.code : Protection → Nat | .unprotected => 0 | .locked => 1 | .opened => 2
def Level.code : Level → Nat | .normal => 0 | .strict => 1
def SawState.code : SawState → Nat | .ready => 0 | .planned => 1 | .go => 2 | .return_ => 3 | .held => 4 | .fault => 5
def WaitReason.code : WaitReason → Nat | .none => 0 | .saw => 1 | .pieces => 2 | .pool => 3
def NoPlanReason.code : NoPlanReason → Nat | .none => 0 | .tail => 1 | .count => 2
def ErrCode.code : ErrCode → Nat
  | .none => 0 | .aborted => 1 | .range => 2 | .notFound => 3 | .stale => 4 | .locked => 5 | .inUse => 6 | .full => 7
  | .check => 8 | .deviceFault => 9
/-- Kind of a zone as delivered: 0 END to 7 GAP in rank order, 8 SOUND (section 10.6). -/
def kindCode : Option Cond → Nat
  | some .tailBand => 0 | some .nose => 1 | some .weld => 2 | some .stop => 3 | some .dim => 4 | some .surf => 5
  | some .held => 6 | some .gap => 7 | none => 8

/-! ### Zone record as delivered, 72 bytes -/

/-- One finding: station, feature or class, deviation, coordinate. -/
def encFinding (f : Finding) : List Byte :=
  enc1 f.station.code ++ enc1 f.item ++ encSigned f.dev ++ encTU f.loc

/-- The four findings of a record; unused ones are 0. -/
def encFindings (fs : List Finding) : List Byte :=
  (fs.take 4).flatMap encFinding ++ zeros (10 * (4 - (fs.take 4).length))

/-- State code of a zone (section 10.6). -/
def ZonePlace.code : ZonePlace → Nat
  | .opened => 0
  | .closed _ => 1
  | .cut _ _ => 2

/-- A zone record (section 10.6); `seen` is the field from (R184). -/
def encZone (z : Zone) (seen : Coord) : List Byte :=
  encKey z.key ++ enc1 z.strand.val ++ enc1 z.place.code ++ [z.conds] ++ enc1 z.severity.code
    ++ [match z.override with | some d => BitVec.ofNat 8 d.code | none => 0xFF#8]
    ++ enc1 z.disposition.code ++ enc1 (kindCode z.kind) ++ enc1 z.generation ++ enc2 z.billet
    ++ enc1 ((if z.stop?.isSome then 1 else 0) + (if z.piece?.isSome then 2 else 0) + (if z.truncated then 4 else 0))
    ++ enc1 z.findings.length ++ encTU z.start ++ encTU (z.stop?.getD 0) ++ encTU seen
    ++ (match z.piece? with | some p => encKey p | none => zeros 4) ++ encFindings z.findings

/-! ### Piece record as delivered, 44 bytes -/

/-- Length of the metal of a piece whose zones have a disposition (R160). -/
def dispLength (d : Disp) (zs : List Zone) : Nat :=
  zs.foldl (fun n z => if z.disposition = d then n + (z.stop?.getD z.start - z.start) else n) 0

/-- The five flags of a piece, bit 0 UNPLANNED to bit 4 AMENDED. -/
def Piece.flagByte (p : Piece) : Nat :=
  (if p.unplanned then 1 else 0) + (if p.late then 2 else 0) + (if p.shifted then 4 else 0)
    + (if p.tailFlag then 8 else 0) + (if p.amended then 16 else 0)

/-- The key of a zone that may be absent; 0 where there is none. -/
def encZoneKey (z : Option Zone) : List Byte :=
  match z with
  | some z => encKey z.key
  | none => zeros 4

/-- A piece record (section 10.6). -/
def encPiece (p : Piece) : List Byte :=
  encKey p.key ++ enc1 p.strand.val ++ enc1 p.state.code ++ enc1 p.verdict.code ++ enc1 p.flagByte
    ++ enc2 p.cutNumber ++ enc2 p.zones.length ++ encTU p.head ++ encTU p.tail ++ encTU (p.length : Int)
    ++ encZoneKey p.zones.head? ++ encZoneKey p.zones.getLast?
    ++ encTU (dispLength .accept p.zones : Int) ++ encTU (dispLength .review p.zones : Int)
    ++ encTU (dispLength .scrap p.zones : Int)

/-! ### Template record -/

/-- One feature: fields 16 to 20, 10 bytes. -/
def encFeature (f : Feature) : List Byte :=
  encSigned f.nominal ++ enc2 f.lower ++ enc2 f.upper ++ enc1 f.station.code ++ enc1 f.severity.code

/-- The template record before its check word: fields 1 to 15, features 0 to 11, flaw classes 0 to 7 (section 10.6). -/
def encTemplateBody (t : Template) : List Byte :=
  enc2 t.dieNumber ++ enc1 t.strandCount ++ enc1 t.features.length ++ encTU (t.noseLen : Int) ++ encTU (t.weldLen : Int)
    ++ encTU (t.stopBefore : Int) ++ encTU (t.stopAfter : Int) ++ encTU (t.endScrap : Int) ++ encTU (t.target : Int)
    ++ encTU (t.minLen : Int) ++ encTU (t.maxLen : Int) ++ [t.cutOut] ++ enc1 t.markSet.toNat ++ enc1 t.nOut ++ enc1 t.mIn
    ++ (t.features.take 12).flatMap encFeature ++ zeros (10 * (12 - (t.features.take 12).length))
    ++ t.flaws.toList.flatMap (fun f => enc1 f.code)

end Machine

/-- The check word: the CRC-16 over every byte before it (R97, section 10.6). -/
def Template.computed (t : Template) : Word16 := crc16 (encTemplateBody t)

/-- The template with its check word recomputed (R97). -/
def Template.sealed (t : Template) : Template := { t with check := t.computed }

namespace Machine

/-- A template record with its check word. -/
def encTemplate (t : Template) : List Byte := encTemplateBody t ++ enc2 t.check.toNat

/-! ### Request names, 16 bytes (section 10.6) -/

/-- Characters as ASCII bytes. -/
def ascii (cs : List Char) : List Byte := cs.map (fun c => BitVec.ofNat 8 c.toNat)

/-- The characters of a request name. -/
def ReqName.chars : ReqName → List Char
  | .setLine => ['S', 'E', 'T', '-', 'L', 'I', 'N', 'E']
  | .readLine => ['R', 'E', 'A', 'D', '-', 'L', 'I', 'N', 'E']
  | .readChannels => ['R', 'E', 'A', 'D', '-', 'C', 'H', 'A', 'N', 'N', 'E', 'L', 'S']
  | .startRun => ['S', 'T', 'A', 'R', 'T', '-', 'R', 'U', 'N']
  | .noBilletChange => ['N', 'O', '-', 'B', 'I', 'L', 'L', 'E', 'T', '-', 'C', 'H', 'A', 'N', 'G', 'E']
  | .endRun => ['E', 'N', 'D', '-', 'R', 'U', 'N']
  | .abandonRun => ['A', 'B', 'A', 'N', 'D', 'O', 'N', '-', 'R', 'U', 'N']
  | .readBillets => ['R', 'E', 'A', 'D', '-', 'B', 'I', 'L', 'L', 'E', 'T', 'S']
  | .readPool => ['R', 'E', 'A', 'D', '-', 'P', 'O', 'O', 'L']
  | .readInspection => ['R', 'E', 'A', 'D', '-', 'I', 'N', 'S', 'P', 'E', 'C', 'T', 'I', 'O', 'N']
  | .editTemplate => ['E', 'D', 'I', 'T', '-', 'T', 'E', 'M', 'P', 'L', 'A', 'T', 'E']
  | .loadTemplate => ['L', 'O', 'A', 'D', '-', 'T', 'E', 'M', 'P', 'L', 'A', 'T', 'E']
  | .storeTemplate => ['S', 'T', 'O', 'R', 'E', '-', 'T', 'E', 'M', 'P', 'L', 'A', 'T', 'E']
  | .readTemplate => ['R', 'E', 'A', 'D', '-', 'T', 'E', 'M', 'P', 'L', 'A', 'T', 'E']
  | .readLibrary => ['R', 'E', 'A', 'D', '-', 'L', 'I', 'B', 'R', 'A', 'R', 'Y']
  | .commitTemplate => ['C', 'O', 'M', 'M', 'I', 'T', '-', 'T', 'E', 'M', 'P', 'L', 'A', 'T', 'E']
  | .unlock => ['U', 'N', 'L', 'O', 'C', 'K']
  | .setCode => ['S', 'E', 'T', '-', 'C', 'O', 'D', 'E']
  | .lock => ['L', 'O', 'C', 'K']
  | .freezeCodes => ['F', 'R', 'E', 'E', 'Z', 'E', '-', 'C', 'O', 'D', 'E', 'S']
  | .readProtection => ['R', 'E', 'A', 'D', '-', 'P', 'R', 'O', 'T', 'E', 'C', 'T', 'I', 'O', 'N']
  | .sawHold => ['S', 'A', 'W', '-', 'H', 'O', 'L', 'D']
  | .sawRelease => ['S', 'A', 'W', '-', 'R', 'E', 'L', 'E', 'A', 'S', 'E']
  | .clearSawFault => ['C', 'L', 'E', 'A', 'R', '-', 'S', 'A', 'W', '-', 'F', 'A', 'U', 'L', 'T']
  | .readSaw => ['R', 'E', 'A', 'D', '-', 'S', 'A', 'W']
  | .retirePiece => ['R', 'E', 'T', 'I', 'R', 'E', '-', 'P', 'I', 'E', 'C', 'E']
  | .removeCutSet => ['R', 'E', 'M', 'O', 'V', 'E', '-', 'C', 'U', 'T', '-', 'S', 'E', 'T']
  | .readPiece => ['R', 'E', 'A', 'D', '-', 'P', 'I', 'E', 'C', 'E']
  | .listArrived => ['L', 'I', 'S', 'T', '-', 'A', 'R', 'R', 'I', 'V', 'E', 'D']
  | .readTransit => ['R', 'E', 'A', 'D', '-', 'T', 'R', 'A', 'N', 'S', 'I', 'T']
  | .markTest => ['M', 'A', 'R', 'K', '-', 'T', 'E', 'S', 'T']
  | .readMarkers => ['R', 'E', 'A', 'D', '-', 'M', 'A', 'R', 'K', 'E', 'R', 'S']
  | .findZone => ['F', 'I', 'N', 'D', '-', 'Z', 'O', 'N', 'E']
  | .readZones => ['R', 'E', 'A', 'D', '-', 'Z', 'O', 'N', 'E', 'S']
  | .walkZones => ['W', 'A', 'L', 'K', '-', 'Z', 'O', 'N', 'E', 'S']
  | .holdSpan => ['H', 'O', 'L', 'D', '-', 'S', 'P', 'A', 'N']
  | .releaseHold => ['R', 'E', 'L', 'E', 'A', 'S', 'E', '-', 'H', 'O', 'L', 'D']
  | .override => ['O', 'V', 'E', 'R', 'R', 'I', 'D', 'E']
  | .holdSpans => ['H', 'O', 'L', 'D', '-', 'S', 'P', 'A', 'N', 'S']
  | .readFault => ['R', 'E', 'A', 'D', '-', 'F', 'A', 'U', 'L', 'T']
  | .clearFault => ['C', 'L', 'E', 'A', 'R', '-', 'F', 'A', 'U', 'L', 'T']
  | .ackAlerts => ['A', 'C', 'K', '-', 'A', 'L', 'E', 'R', 'T', 'S']
  | .raiseSoft => ['R', 'A', 'I', 'S', 'E', '-', 'S', 'O', 'F', 'T']
  | .setAlertMask => ['S', 'E', 'T', '-', 'A', 'L', 'E', 'R', 'T', '-', 'M', 'A', 'S', 'K']
  | .other _ => []

/-- A request name padded with spaces to 16 bytes; a name the catalogue lacks is carried as it was sent. -/
def ReqName.bytes (n : ReqName) : List Byte :=
  match n with
  | .other bs => (bs ++ List.replicate 16 0x20#8).take 16
  | n => (ascii n.chars ++ List.replicate 16 0x20#8).take 16

/-- The catalogue (section 10.3). -/
def catalogue : List ReqName :=
  [.setLine, .readLine, .readChannels, .startRun, .noBilletChange, .endRun, .abandonRun, .readBillets, .readPool]
    ++ [.readInspection, .editTemplate, .loadTemplate, .storeTemplate, .readTemplate, .readLibrary, .commitTemplate, .unlock, .setCode]
    ++ [.lock, .freezeCodes, .readProtection, .sawHold, .sawRelease, .clearSawFault, .readSaw, .retirePiece, .removeCutSet]
    ++ [.readPiece, .listArrived, .readTransit, .markTest, .readMarkers, .findZone, .readZones, .walkZones, .holdSpan]
    ++ [.releaseHold, .override, .holdSpans, .readFault, .clearFault, .ackAlerts, .raiseSoft, .setAlertMask]

/-! ### Result record, fault context, REPLY -/

/-- A result record: request name, error code, fields (R199, R209). -/
def ResultRecord.bytes (r : ResultRecord) : List Byte := r.name.bytes ++ enc1 r.error.code ++ r.fields

/-- Kind code of a failing item, in the order of R204's list. -/
def FaultItem.code : FaultItem → Nat
  | .none => 0 | .key _ => 1 | .coordinate _ => 2 | .span _ => 3 | .field _ _ => 4 | .slot _ => 5 | .cut _ => 6

/-- A failing item in four bytes, filled with 0. DESIGN CHOICE (log 12): the index of a span, 0 to 1,023, takes two bytes, since the one byte
R209 gives an index cannot hold it, and a library slot, to which R209 gives no type, takes one. -/
def FaultItem.bytes : FaultItem → List Byte
  | .none => zeros 4
  | .key k => encKey k
  | .coordinate x => encTU x
  | .span i => enc2 i ++ zeros 2
  | .field n i => enc1 n ++ enc1 i ++ zeros 2
  | .slot n => enc1 n ++ zeros 3
  | .cut n => enc2 n ++ zeros 2

/-- The fault context block (R205): whether a context is held, then its items in the order of R204. DESIGN CHOICE (log 57): R205 has the block
say that no context is held and gives no item for it; the model says it in a flag byte before the items, and sends the bytes of every item as
0 while none is held. -/
def encFault : Option FaultContext → List Byte
  | some c =>
    encFlag true ++ c.request.bytes ++ enc1 c.error.code ++ enc1 c.item.code
      ++ encFlag (c.item != .none) ++ c.item.bytes ++ enc2 c.done ++ encFlag c.overrun
  | none => encFlag false ++ zeros 16 ++ enc1 0 ++ enc1 0 ++ encFlag false ++ zeros 4 ++ enc2 0 ++ encFlag false

/-- Code of a port state in a REPLY (R208). -/
def PortCode.code : PortCode → Nat | .ready => 0 | .busy => 1 | .dataOut => 2 | .dataIn => 3

/-- The flag byte of a REPLY (R208). -/
def Reply.flagByte (r : Reply) : Nat :=
  (if r.deviceFault then 1 else 0) + (if r.lastMark then 2 else 0) + (if r.contextHeld then 4 else 0)
    + (if r.overrun then 8 else 0) + (if r.alert then 16 else 0) + (if r.enable then 32 else 0)

/-- The body of a REPLY (R208). -/
def Reply.body (r : Reply) : List Byte :=
  enc1 r.answer.code ++ enc1 r.port.code ++ enc1 r.flagByte ++ enc1 r.lastError.code ++ enc2 r.pendingSet.toNat
    ++ enc2 r.data.length ++ r.data

/-- A message frame: kind, body length, body, CRC-16 (R208). -/
def frameOf (kind : Byte) (body : List Byte) : List Byte :=
  [kind] ++ enc2 body.length ++ body ++ enc2 (crc16 ([kind] ++ enc2 body.length ++ body)).toNat

/-- The REPLY as the host clocks it out, the two fill bytes before it left out (R208). -/
def Reply.frame (r : Reply) : List Byte := frameOf 0x81#8 r.body

/-- The answer byte of a gauge frame (section 10.6). -/
def GaugeAnswer.byte : GaugeAnswer → Byte | .taken => 0x06#8 | .full => 0x0F#8 | .refused => 0x15#8

end Machine

end Sys2Proof
end

