-- ==== Sys2Proof/Machine/Ops.lean ====
section
/-! DEFINITION. The named operations over the state: updates block by block, alerts, free choices, the zone pool and the piece slots, the tracks and the held set, and how a request runs and ends at the Line Port. -/

namespace Sys2Proof

open Machine

namespace Machine

/-! ### Updates, one block at a time -/

def State.onTcu (s : State) (f : Tcu → Tcu) : State := { s with tcu := f s.tcu }
def State.onLine (s : State) (f : Line → Line) : State := { s with line := f s.line }
def State.onTravel (s : State) (f : Travel → Travel) : State := { s with travel := f s.travel }
def State.onRc (s : State) (f : Rc → Rc) : State := { s with rc := f s.rc }
def State.onTs (s : State) (f : Ts → Ts) : State := { s with ts := f s.ts }
def State.onPt (s : State) (f : Pt → Pt) : State := { s with pt := f s.pt }
def State.onIu (s : State) (f : Iu → Iu) : State := { s with iu := f s.iu }
def State.onTps (s : State) (f : Tps → Tps) : State := { s with tps := f s.tps }
def State.onCps (s : State) (f : Cps → Cps) : State := { s with cps := f s.cps }
def State.onSwm (s : State) (f : Swm → Swm) : State := { s with swm := f s.swm }
def State.onLp (s : State) (f : Lp → Lp) : State := { s with lp := f s.lp }
def State.onPins (s : State) (f : Pins → Pins) : State := { s with pins := f s.pins }
def State.onChoice (s : State) (f : Choice → Choice) : State := { s with choice := f s.choice }

/-! ### Alerts (R206) -/

/-- Raise a cause: it joins the pending set, where it stays if it was there (R206). -/
def State.raise (s : State) (c : AlertCause) : State :=
  s.onLp fun p => { p with alerts := { p.alerts with pendingSet := p.alerts.pendingSet ||| causeMask c } }

/-- Raise a cause where a condition holds. -/
def State.raiseIf (s : State) (b : Bool) (c : AlertCause) : State := if b then s.raise c else s

/-! ### Free choices (log 6) -/

/-- The choice that comes next. -/
def State.nextChoice (s : State) : Nat :=
  match s.choice.script with
  | n :: _ => n
  | [] => Config.freeChoice s.choice.drawn

/-- The state once that choice is used. -/
def State.dropChoice (s : State) : State :=
  s.onChoice fun c =>
    match c.script with
    | _ :: r => { c with script := r }
    | [] => { c with drawn := c.drawn + 1 }

/-- The member of a list that a choice picks; any member can be picked. -/
def pickOf (n : Nat) (free : List Nat) : Nat := free.getD (n % free.length) 0

/-- Put a slot back into a free list, which is kept in ascending order (it "holds no order", R45). -/
def insertSlot (x : Nat) : List Nat → List Nat
  | [] => [x]
  | y :: ys => if x < y then x :: y :: ys else if x = y then y :: ys else y :: insertSlot x ys

/-- Insert into an ascending list without repeats (the ends of R34, in ascending order). -/
def sortUnique (xs : List Nat) : List Nat := xs.foldr insertSlot []

/-! ### Strands, templates, configuration -/

/-- The four strands in order. -/
def strands : List Strand := [0, 1, 2, 3]

/-- Whether a strand is active (R27). -/
def State.isActive (s : State) (st : Strand) : Bool := st.val < s.rc.active

/-- The active strands in order of strand number. -/
def State.activeStrands (s : State) : List Strand := strands.filter s.isActive

/-- Line length (R11). -/
def State.L (s : State) : Coord := s.tcu.L

/-- The line configuration (R20). -/
def State.cfg (s : State) : LineConfig := s.line.cfg

/-- The template of ACTIVE; the default template while it is empty, which no rule then reads. -/
def State.activeTemplate (s : State) : Template :=
  match s.tps.active with
  | some g => g.template
  | none => Template.defaults

/-- The generation of ACTIVE (R101). -/
def State.activeGeneration (s : State) : Nat :=
  match s.tps.active with
  | some g => g.generation
  | none => 1

/-- Distance and latency of a gauge station (R1, R2). -/
def LineConfig.gauge (c : LineConfig) : Gauge → Nat × Nat
  | .g0 => (c.dG0, c.latG0)
  | .g1 => (c.dG1, c.latG1)
  | .g2 => (c.dG2, c.latG2)

/-- The coordinate under a station at distance d, where there is metal under it (R1). -/
def State.under (s : State) (d : Nat) : Option Coord := if d ≤ s.L then some (s.L - d) else none

/-- The coordinate under the tag point of a gauge station (R2). -/
def State.tagPoint (s : State) (g : Gauge) : Option Coord := s.under ((s.cfg.gauge g).1 + (s.cfg.gauge g).2)

/-- The marker point x (R164). -/
def State.markerPoint (s : State) : Option Coord := s.under s.cfg.dMK

/-- The link of a gauge station. -/
def Iu.link (u : Iu) : Gauge → Link
  | .g0 => u.g0
  | .g1 => u.g1
  | .g2 => u.g2

/-- Update the link of a gauge station. -/
def Iu.onLink (u : Iu) (g : Gauge) (f : Link → Link) : Iu :=
  match g with
  | .g0 => { u with g0 := f u.g0 }
  | .g1 => { u with g1 := f u.g1 }
  | .g2 => { u with g2 := f u.g2 }

/-- A channel of the TCU. -/
def Tcu.chan (t : Tcu) : Chan → Channel
  | .a => t.chA
  | .b => t.chB

/-- Update a channel of the TCU. -/
def Tcu.onChan (t : Tcu) (c : Chan) (f : Channel → Channel) : Tcu :=
  match c with
  | .a => { t with chA := f t.chA }
  | .b => { t with chB := f t.chB }

end Machine

/-- The channel that is not the one named. -/
def Chan.other : Chan → Chan
  | .a => .b
  | .b => .a

namespace Machine

/-! ### Zone slots (R45 to R47) -/

/-- The available count: free list less set-aside (R45). -/
def Ts.available (t : Ts) : Nat := t.free.length - t.setAside

/-- What a take is made for (R46). -/
inductive TakeKind | nonMandatory | mandatory | cut
  deriving DecidableEq, Repr

/-- Whether a take is granted (R46). -/
def Ts.grants (t : Ts) : TakeKind → Bool
  | .nonMandatory => Config.reserve < t.available
  | .mandatory => 0 < t.available
  | .cut => 0 < t.setAside && 0 < t.free.length

/-- POOL-LOW where the available count falls from 17 or above to 16 or below (R47). -/
def State.poolLow (s : State) (before : Nat) : State :=
  s.raiseIf (decide (Config.reserve < before) && decide (s.ts.available ≤ Config.reserve)) .poolLow

/-- The key that the next take receives: any slot of the free list (R45), with its sequence number (R44). -/
def State.takenKey (s : State) : Key :=
  let slot := pickOf s.nextChoice s.ts.free
  { slot := slot, seq := s.ts.seqs[slot]?.getD 0 }

/-- A take: a slot leaves the free list, a take for a cut uses one of the set-aside slots (R45, R46), and POOL-LOW is
raised where the available count crosses (R47). Refused: `none`. -/
def State.takeZone (s : State) (k : TakeKind) : Option (Key × State) :=
  if s.ts.grants k then
    let key := s.takenKey
    some (key, (s.dropChoice.onTs fun t =>
      { t with free := t.free.erase key.slot, setAside := if k = .cut then t.setAside - 1 else t.setAside }).poolLow s.ts.available)
  else none

/-- A free: the slot joins the free list and its sequence number advances by one, wrapping (R45). -/
def State.freeZone (s : State) (k : Key) : State :=
  s.onTs fun t =>
    { t with free := insertSlot k.slot t.free,
             seqs := t.seqs.setIfInBounds k.slot ((t.seqs[k.slot]?.getD 0) + 1) }

/-- Free every zone of a list (R72). -/
def State.freeZones (s : State) (zs : List Zone) : State := zs.foldl (fun s z => s.freeZone z.key) s

/-- Set n zone slots aside, raising POOL-LOW where the available count crosses (R46, R47). -/
def State.setZonesAside (s : State) (n : Nat) : State :=
  (s.onTs fun t => { t with setAside := t.setAside + n }).poolLow s.ts.available

/-! ### Piece slots (R144, R147) -/

/-- The available piece count (R144). -/
def Pt.available (p : Pt) : Nat := p.free.length - p.setAside

/-- A take of a piece slot: any free slot (R144); a take for a reserved cut uses a set-aside slot (R147). -/
def State.takePiece (s : State) (reserved : Bool) : Key × State :=
  let slot := pickOf s.nextChoice s.pt.free
  ({ slot := slot, seq := s.pt.seqs[slot]?.getD 0 },
   s.dropChoice.onPt fun p =>
     { p with free := p.free.erase slot, setAside := if reserved then p.setAside - 1 else p.setAside })

/-- A free of a piece slot: its sequence number advances by one, wrapping (R144). -/
def State.freePieceSlot (s : State) (k : Key) : State :=
  s.onPt fun p =>
    { p with free := insertSlot k.slot p.free,
             seqs := p.seqs.setIfInBounds k.slot ((p.seqs[k.slot]?.getD 0) + 1) }

/-- The reservation returned to the Track Store and the Piece Table (R46, R147). -/
def State.returnReservation (s : State) : State :=
  (s.onTs fun t => { t with setAside := 0 }).onPt fun p => { p with setAside := 0 }

/-! ### Tracks and the held set (R54, R55) -/

/-- The track of a strand. -/
def State.track (s : State) (st : Strand) : List Zone := s.ts.tracks[st]

/-- Write the track of a strand. -/
def State.setTrack (s : State) (st : Strand) (zs : List Zone) : State :=
  s.onTs fun t => { t with tracks := t.tracks.set st zs }

/-- Write the strand first coordinate of a strand. -/
def State.setFirst (s : State) (st : Strand) (x : Coord) : State := s.onTs fun t => { t with first := t.first.set st x }

/-- The start of the open zone, where the track ends in one. -/
def openStart? (zs : List Zone) : Option Coord :=
  match zs.getLast? with
  | some z => if z.isOpen then some z.start else none
  | none => none

/-- Whether the track of a strand ends in an open zone. -/
def State.endsOpen (s : State) (st : Strand) : Bool := (openStart? (s.track st)).isSome

/-- The end of the stretch that a track covers (R55): U, the greater of L and the start of the open zone, while it ends
in one; else the end of its last zone; else the strand first coordinate, where it covers nothing. -/
def State.trackEnd (s : State) (st : Strand) : Coord :=
  match (s.track st).getLast? with
  | some z => (match z.stop? with | some e => e | none => max s.L z.start)
  | none => s.ts.first[st]

/-- The boundary coordinate of R19: the greater of L and the start of the open zone. -/
def State.boundaryCoord (s : State) (st : Strand) : Coord :=
  match openStart? (s.track st) with
  | some a => max s.L a
  | none => s.L

/-- The pieces of a strand, in order of their heads. -/
def State.piecesOf (s : State) (st : Strand) : List Piece := s.pt.pieces.filter (fun p => p.strand == st)

/-- The piece of a strand whose [head, tail) holds x (R161). -/
def State.pieceAt (s : State) (st : Strand) (x : Coord) : Option Piece :=
  (s.piecesOf st).find? (fun p => decide (p.head ≤ x) && decide (x < p.tail))

/-- The zone that holds x, in the zone list of a piece or in the track, the open zone counting as holding every
coordinate from its start upward (R186). -/
def State.walkZone (s : State) (st : Strand) (x : Coord) : Option Zone :=
  match s.pieceAt st x with
  | some p => p.zones.find? (·.holds x)
  | none => (s.track st).find? (·.holds x)

/-- The zone of the held set that holds x (R55): in the open zone only below U. -/
def State.heldZone (s : State) (st : Strand) (x : Coord) : Option Zone :=
  match s.pieceAt st x with
  | some p => p.zones.find? (·.holds x)
  | none => if x < s.trackEnd st then (s.track st).find? (·.holds x) else none

/-- The end of the held set of a strand: the end of its track, or the highest tail where the track is empty (R187). -/
def State.heldEnd (s : State) (st : Strand) : Coord :=
  if (s.track st).isEmpty then (s.piecesOf st).foldl (fun m p => max m p.tail) 0 else s.trackEnd st

/-- The lowest held coordinate of the run (R42): the lowest head of all pieces, or the strand first coordinate. -/
def State.lowestHeld (s : State) : Coord :=
  match s.pt.pieces with
  | [] => s.ts.first[0]
  | p :: ps => ps.foldl (fun m q => min m q.head) p.head

/-- The head h that the planner works from: the strand first coordinate, common to the active strands (section 6.2). -/
def State.head (s : State) : Coord := s.ts.first[0]

/-- The piece that a current key names (R144). -/
def State.pieceByKey (s : State) (k : Key) : Option Piece := s.pt.pieces.find? (fun p => p.key == k)

/-! ### The die run and billets -/

/-- The newest billet entry (R41). -/
def State.newestBillet (s : State) : Option Billet := s.rc.billets.getLast?

/-- The ordinal of the newest billet. -/
def State.newestOrdinal (s : State) : Nat :=
  match s.newestBillet with
  | some b => b.ordinal
  | none => 1

/-- RUNNING, DEAD or DRAINING (R16, R75, R89). -/
def RunState.moving : RunState → Bool
  | .idle => false
  | .armed => false
  | .running => true
  | .dead => true
  | .draining => true

/-- A change of die-run state, which raises RUN-STATE (R25). -/
def State.enter (s : State) (r : RunState) : State := (s.onRc fun c => { c with run := r }).raise .runState

/-! ### Requests at the Line Port (R197 to R204) -/

/-- The course a request takes at its taking (R198): it ends at once, it delivers a snapshot, or it goes on. -/
inductive Course
  | ends (s : State) (e : ErrCode) (fields : List Byte) (item : FaultItem) (done : Nat)
  | deliver (s : State) (block : List Byte)
  | goesOn (s : State) (p : PortState)

/-- A positive end at the taking, with the fields the reply carries. -/
def Course.ok (s : State) (fields : List Byte) : Course := .ends s .none fields .none 0

/-- A refusal at the taking whose rule names no failing item (R204). -/
def Course.refuse (s : State) (e : ErrCode) : Course := .ends s e [] .none 0

/-- A refusal at the taking with its failing item. -/
def Course.refuseAt (s : State) (e : ErrCode) (item : FaultItem) : Course := .ends s e [] item 0

/-- The REPLY that the present state gives to a message (R196, R208). -/
def State.replyTo (s : State) (answer : ErrCode) (lastMark : Bool) (data : List Byte) : Reply :=
  { answer := answer, port := s.lp.port.code, deviceFault := s.tps.deviceFault, lastMark := lastMark,
    contextHeld := s.lp.fault.isSome, overrun := (match s.lp.fault with | some c => c.overrun | none => false),
    alert := s.lp.alerts.line, enable := s.lp.alerts.enable, lastError := s.lp.lastError,
    pendingSet := s.lp.alerts.pendingSet, data := data }

/-- Answer a message. -/
def State.respond (s : State) (answer : ErrCode) (lastMark : Bool) (data : List Byte) : State :=
  s.onLp fun p => { p with reply := some (s.replyTo answer lastMark data) }

/-- The result record's bytes; none while it is empty (R199). -/
def State.resultBytes (s : State) : List Byte :=
  match s.lp.result with
  | some r => r.bytes
  | none => []

/-- The fault context after a request has ended with an error code: made where none is held, else OVERRUN (R204). -/
def faultAfter (held : Option FaultContext) (name : ReqName) (e : ErrCode) (item : FaultItem) (done : Nat) : Option FaultContext :=
  if e = .none then held
  else
    match held with
    | some c => some { c with overrun := true }
    | none => some { request := name, error := e, item := item, done := done, overrun := false }

/-- The end of a request (R199): last error, result record, fault context on a refusal, READY with no request in progress. -/
def State.endRequest (s : State) (name : ReqName) (e : ErrCode) (fields : List Byte) (item : FaultItem) (done : Nat) : State :=
  s.onLp fun p =>
    { p with port := .ready, request := none, lastError := e, result := some { name := name, error := e, fields := fields },
             fault := faultAfter p.fault name e item done }

/-- The end of a request at a later event than its taking, which raises REQUEST-DONE (R199). -/
def State.endLater (s : State) (name : ReqName) (e : ErrCode) (fields : List Byte) (item : FaultItem) (done : Nat) : State :=
  (s.endRequest name e fields item done).raise .requestDone

/-- The state in which a REQUEST has been taken: it is the request in progress (R197), and the result record is emptied
(R199). -/
def State.taking (s : State) (c : Instr) : State := s.onLp fun p => { p with request := some c, result := none }

/-- What the port does with the course of a request (R198), and the REPLY to its REQUEST. -/
def Course.settle (name : ReqName) : Course → State
  | .ends s e fields item done =>
    let t := s.endRequest name e fields item done
    t.respond .none false t.resultBytes
  | .deliver s block => (s.onLp fun p => { p with port := .dataOut (.snapshot name), buffer := block }).respond .none false []
  | .goesOn s port => (s.onLp fun p => { p with port := port }).respond .none false []

/-- A REQUEST, of a command and its request name: taken while the port is READY, answered ABORTED and without effect otherwise (R198). -/
def State.request (s : State) (c : Instr) (name : ReqName) (body : State → Course) : State :=
  if s.lp.port.isReady then (body (s.taking c)).settle name else s.respond .aborted false []

end Machine

end Sys2Proof
end

