-- ==== Sys2Proof/Machine/Operands.lean ====
section
/-! DEFINITION. The operand forms of the requests: strands, named values, addresses (09, section 9.1), line configuration records (01, R20 and R21), template fields (05, R96 and R100), span records (10, section 10.6). -/

namespace Sys2Proof

open Machine

namespace Machine

/-! ### Strands and named values -/

/-- A strand 0 to 3; anything else is outside its range. -/
def strandOf (n : Nat) : Option Strand := if h : n < 4 then some ⟨n, h⟩ else none

/-- A library slot 0 to 15. -/
def slotOf (n : Nat) : Option (Fin 16) := if h : n < 16 then some ⟨n, h⟩ else none

/-- A decoding mode by its code (R209). -/
def chanModeOf : Nat → Option ChanMode
  | 0 => some .x1 | 1 => some .x2 | 2 => some .x4 | 3 => some .countDir | _ => none

/-- An item listed as on, off by its code (log 11). -/
def onOffOf : Nat → Option Bool
  | 0 => some true | 1 => some false | _ => none

/-- A flag by its code, set 1 and clear 0 (log 11). -/
def flagOf : Nat → Option Bool
  | 0 => some false | 1 => some true | _ => none

/-- A puller mode by its code. -/
def pullerModeOf : Nat → Option PullerMode
  | 0 => some .single | 1 => some .double | _ => none

/-- An idle policy by its code. -/
def idlePolicyOf : Nat → Option IdlePolicy
  | 0 => some .off | 1 => some .retain | _ => none

/-- A level of protection by its code. -/
def levelOf : Nat → Option Level
  | 0 => some .normal | 1 => some .strict | _ => none

/-! ### The line configuration (R20, R21) -/

end Machine

/-- The fields of R20 in order of their numbers, each with whether it passes its check (R21). -/
def LineRecord.passes (r : LineRecord) : List (Nat × Bool) :=
  let dist := fun (x : Nat) => decide (1 ≤ x) && decide (x ≤ 2000000)
  let upto := fun (x m : Nat) => decide (x ≤ m)
  let scale := fun (x : Nat) => decide (1 ≤ x) && decide (x ≤ 65535)
  [(1, dist r.dG0), (2, dist r.dG1 && decide (r.dG0 < r.dG1)), (3, dist r.dG2 && decide (r.dG1 < r.dG2)),
   (4, dist r.dMK && decide (r.dG2 < r.dMK)), (5, dist r.dSAW && decide (r.dMK < r.dSAW)),
   (6, upto r.latG0 50000), (7, upto r.latG1 50000), (8, upto r.latG2 50000),
   (9, (pullerModeOf r.pullerMode).isSome), (10, onOffOf r.aEnable == some true), (11, (chanModeOf r.aMode).isSome),
   (12, scale r.aScale),
   (13, (onOffOf r.bEnable).isSome && !(onOffOf r.bEnable == some false && pullerModeOf r.pullerMode == some .double)),
   (14, (chanModeOf r.bMode).isSome), (15, scale r.bScale),
   (16, decide (100 ≤ r.gapLimit) && upto r.gapLimit 1000000), (17, decide (50 ≤ r.cutTimeout) && upto r.cutTimeout 5000),
   (18, upto r.lead 100000), (19, upto r.minMark 50000), (20, upto r.minGap 50000),
   (21, (idlePolicyOf r.idlePolicy).isSome), (22, upto r.markerEnables 15)]

/-- The number of the first field that fails its check (R21). -/
def LineRecord.firstBad (r : LineRecord) : Option Nat := (r.passes.find? fun p => !p.2).map (·.1)

/-- The configuration that a record names, once its fields have passed. -/
def LineRecord.config (r : LineRecord) : LineConfig :=
  { dG0 := r.dG0, dG1 := r.dG1, dG2 := r.dG2, dMK := r.dMK, dSAW := r.dSAW, latG0 := r.latG0, latG1 := r.latG1,
    latG2 := r.latG2, pullerMode := (pullerModeOf r.pullerMode).getD .single, aEnable := (onOffOf r.aEnable).getD false,
    aMode := (chanModeOf r.aMode).getD .x4, aScale := r.aScale, bEnable := (onOffOf r.bEnable).getD false,
    bMode := (chanModeOf r.bMode).getD .x4, bScale := r.bScale, gapLimit := r.gapLimit, cutTimeout := r.cutTimeout,
    lead := r.lead, minMark := r.minMark, minGap := r.minGap, idlePolicy := (idlePolicyOf r.idlePolicy).getD .off,
    markerEnables := BitVec.ofNat 4 r.markerEnables }

namespace Machine

/-! ### Addresses (R179 to R182) -/

/-- The distance of a station by its code (R208): DIE has distance 0 (R1). -/
def LineConfig.station (c : LineConfig) : Nat → Option Nat
  | 0 => some 0 | 1 => some c.dG0 | 2 => some c.dG1 | 3 => some c.dG2 | 4 => some c.dMK | 5 => some c.dSAW | _ => none

/-- A STATION address, worked out as a signed number without loss (R179, R180). -/
def State.resolveStation (s : State) (code : Nat) (offset : Int) : Except ErrCode Coord :=
  match s.cfg.station code with
  | none => .error .range
  | some d =>
    if offset < -8388607 ∨ 8388607 < offset then .error .range
    else if s.line.valid = false ∧ code ≠ 0 then .error .range
    else
      let x : Int := (s.L : Int) - d + offset
      if x < 0 ∨ (s.L : Int) < x then .error .range else .ok x.toNat

/-- A BILLET address: the start of that billet's entry plus the offset (R179, R181). -/
def State.resolveBillet (s : State) (ordinal offset : Nat) : Except ErrCode Coord :=
  if ordinal < 1 ∨ 65535 < ordinal ∨ Config.coordMax < offset then .error .range
  else
    match s.rc.billets.find? (fun b => b.ordinal == ordinal) with
    | none => .error .notFound
    | some b => if Config.coordMax < b.start + offset then .error .range else .ok (b.start + offset)

/-- An address resolved to one coordinate, or its refusal (R179 to R181). -/
def State.resolve (s : State) : Address → Except ErrCode Coord
  | .abs c => if c ≤ Config.coordMax then .ok c else .error .range
  | .station code offset => s.resolveStation code offset
  | .billet ordinal offset => s.resolveBillet ordinal offset
  | .unknown _ => .error .range

/-- The checks that HOLD-SPAN, RELEASE-HOLD and each span of HOLD-SPANS make, in their order (R191): the strand and the
two coordinates, or the error. -/
def State.checkSpan (s : State) (sp : Span) : Except ErrCode (Strand × Coord × Coord) :=
  if s.rc.run = .idle then .error .aborted
  else
    match strandOf sp.strand with
    | none => .error .range
    | some st =>
      match s.resolve sp.first with
      | .error e => .error e
      | .ok x1 =>
        match s.resolve sp.second with
        | .error e => .error e
        | .ok x2 =>
          if s.isActive st = false then .error .range
          else if x2 ≤ x1 then .error .range
          else .ok (st, x1, x2)

/-! ### Bytes of a put block (R194, section 10.6) -/

/-- An address from its seven bytes (section 10.6); bytes that are 0 there are not checked (log 50). -/
def readAddress (bs : List Byte) : Address :=
  match (bs.headD 0).toNat with
  | 0 => .abs (readNat ((bs.drop 1).take 4))
  | 1 => .station (bs.getD 1 0).toNat (readSigned24 ((bs.drop 2).take 3))
  | 2 => .billet (readNat ((bs.drop 1).take 2)) (readNat ((bs.drop 3).take 4))
  | m => .unknown m

/-- A span record from its 15 bytes: the strand, then two addresses. -/
def readSpan (bs : List Byte) : Span :=
  { strand := (bs.headD 0).toNat, first := readAddress ((bs.drop 1).take 7), second := readAddress ((bs.drop 8).take 7) }

/-- The first `n` span records of a block. -/
def readSpans : Nat → List Byte → List Span
  | 0, _ => []
  | n + 1, bs => readSpan (bs.take 15) :: readSpans n (bs.drop 15)

/-! ### Template fields (R96, R100) -/

/-- Whether a field number is one of 1 to 21 and its index lies in its range (R100 step 2). R100 gives an index for fields 16 to 21
only: one given with fields 1 to 15 is taken whatever it is (the model's choice, log 56). -/
def fieldNamed (field index : Nat) : Bool :=
  decide (1 ≤ field) && decide (field ≤ 21) && (if field < 16 then true else if field < 21 then decide (index ≤ 11) else decide (index ≤ 7))

/-- Least and greatest value of a field, named values and sets as their codes (R96, R100 step 3, R209). -/
def fieldRange : Nat → Int × Int
  | 1 => (0, 65535) | 2 => (1, 4) | 3 => (0, 12) | 4 => (0, 2000000) | 5 => (0, 500000) | 6 => (0, 100000)
  | 7 => (0, 100000) | 8 => (0, 500000) | 9 => (5000, 1200000) | 10 => (5000, 1200000) | 11 => (5000, 1200000)
  | 12 => (0, 15) | 13 => (0, 7) | 14 => (1, 15) | 15 => (1, 15) | 16 => (-8388608, 8388607) | 17 => (0, 65535)
  | 18 => (0, 65535) | 19 => (0, 1) | 20 => (0, 1) | _ => (0, 2)

/-- The features after the count is set: raising it adds features with their first values, lowering it discards (R100). -/
def setFeatureCount (fs : List Feature) (n : Nat) : List Feature :=
  fs.take n ++ List.replicate (n - fs.length) Feature.first

/-- Write one field of a feature. -/
def onFeature (t : Template) (index : Nat) (f : Feature → Feature) : Template :=
  { t with features := t.features.modify index f }

/-- A flaw severity by its code. -/
def flawSeverityOf : Nat → FlawSeverity
  | 0 => .ignore | 1 => .review | _ => .scrap

/-- Write one field of a template, its value in range (R100). -/
def writeField (t : Template) (field index : Nat) (v : Int) : Template :=
  match field with
  | 1 => { t with dieNumber := v.toNat }
  | 2 => { t with strandCount := v.toNat }
  | 3 => { t with features := setFeatureCount t.features v.toNat }
  | 4 => { t with noseLen := v.toNat }
  | 5 => { t with weldLen := v.toNat }
  | 6 => { t with stopBefore := v.toNat }
  | 7 => { t with stopAfter := v.toNat }
  | 8 => { t with endScrap := v.toNat }
  | 9 => { t with target := v.toNat }
  | 10 => { t with minLen := v.toNat }
  | 11 => { t with maxLen := v.toNat }
  | 12 => { t with cutOut := BitVec.ofNat 8 v.toNat }
  | 13 => { t with markSet := BitVec.ofNat 3 v.toNat }
  | 14 => { t with nOut := v.toNat }
  | 15 => { t with mIn := v.toNat }
  | 16 => onFeature t index fun f => { f with nominal := v }
  | 17 => onFeature t index fun f => { f with lower := v.toNat }
  | 18 => onFeature t index fun f => { f with upper := v.toNat }
  | 19 => onFeature t index fun f => { f with station := if v = 0 then .g0 else .g2 }
  | 20 => onFeature t index fun f => { f with severity := if v = 0 then .review else .scrap }
  | _ => { t with flaws := t.flaws.setIfInBounds index (flawSeverityOf v.toNat) }

/-- Whether EDIT-TEMPLATE takes a field, index and value against a template (R100 steps 2 to 4). -/
def editTakes (t : Template) (field index : Nat) (v : Int) : Bool :=
  fieldNamed field index && decide ((fieldRange field).1 ≤ v) && decide (v ≤ (fieldRange field).2)
    && (if 16 ≤ field ∧ field ≤ 20 then decide (index < t.features.length) else true)

end Machine

end Sys2Proof
end

