-- ==== Sys2Proof/Machine/Planner.lean ====
section
/-! DEFINITION. The cut planner (06, sections 6.2 and 6.3): stretches, the plan, the GO threshold and the reservation. -/

namespace Sys2Proof.Machine

open Sys2Proof

/-! ### Stretches (R122, R123) -/

/-- The conditions that make a cut-out zone: NOSE, END, WELD, STOP and ACTIVE's cut-out set (R122). -/
def State.cutOutSet (s : State) : CondSet :=
  condMask .tailBand ||| condMask .nose ||| condMask .weld ||| condMask .stop ||| s.activeTemplate.cutOut

/-- Whether a zone is a cut-out zone (R122). -/
def State.isCutOut (s : State) (z : Zone) : Bool := decide (z.conds &&& s.cutOutSet ≠ 0)

/-- A stretch [z0, z1), its end perhaps unknown (R123). -/
structure Stretch where
  z0 : Coord
  z1 : Option Coord
  deriving DecidableEq, Repr

/-- The greatest of the ends that a set of conditions has; unknown where one of them has no live entry (R123). -/
def greatestEnd (f : FutureList) : List Cond → Option Coord
  | [] => some 0
  | c :: cs =>
    match f.end? c, greatestEnd f cs with
    | some e, some m => some (max e m)
    | _, _ => none

/-- How far an open cut-out zone counts as reaching (R123). -/
def State.openReach (s : State) (st : Strand) (z : Zone) : Option Coord :=
  greatestEnd (s.rc.future[st]) (condRank.filter (fun c => hasCond (z.conds &&& s.cutOutSet) c))

/-- The range of a cut-out zone (R123). DESIGN CHOICE (log 63): the range of an open zone whose live entries all end at or below its start
is kept, though it is empty. -/
def State.stretchOf (s : State) (st : Strand) (z : Zone) : Stretch :=
  { z0 := z.start, z1 := match z.stop? with | some e => some e | none => s.openReach st z }

/-- Whether a range overlaps the window (h, h + Mx] (R123). -/
def Stretch.overlaps (r : Stretch) (h mx : Nat) : Bool :=
  decide (r.z0 ≤ h + mx) && (match r.z1 with | some e => decide (h < e) | none => true)

/-- Insert a range in order of starts. -/
def insertStretch (r : Stretch) : List Stretch → List Stretch
  | [] => [r]
  | q :: qs => if r.z0 ≤ q.z0 then r :: q :: qs else q :: insertStretch r qs

/-- Join to the first stretch every later one that meets it or lies closer than m (R123). -/
def joinFirst (m : Nat) (r : Stretch) : List Stretch → Stretch
  | [] => r
  | q :: qs =>
    match r.z1 with
    | none => r
    | some e =>
      if q.z0 ≤ e ∨ q.z0 < e + m then
        joinFirst m { r with z1 := match q.z1 with | some e' => some (max e e') | none => none } qs
      else r

/-- The ranges of the cut-out zones of every active strand that overlap the window, in order of starts (R123). -/
def State.cutOutRanges (s : State) : List Stretch :=
  ((s.activeStrands.flatMap fun st => ((s.track st).filter s.isCutOut).map (s.stretchOf st)).filter
    (fun r => r.overlaps s.head s.activeTemplate.maxLen)).foldr insertStretch []

/-- The earliest stretch (R123). -/
def State.earliest (s : State) : Option Stretch :=
  match s.cutOutRanges with
  | [] => none
  | r :: rs => some (joinFirst s.activeTemplate.minLen r rs)

/-! ### The plan (R124 to R127) -/

/-- The cut coordinate p (R124). -/
def planCoord (h target m mx : Nat) : Option Stretch → Coord
  | none => h + target
  | some r =>
    if h + target ≤ r.z0 then h + target
    else if m ≤ r.z0 - h then r.z0
    else
      match r.z1 with
      | some e => min (max e (h + m)) (h + mx)
      | none => h + mx

/-- The earliest coordinate the saw can still reach with its lead; none while L is below d_SAW (R125). -/
def State.reachable (s : State) : Option Coord :=
  if s.cfg.dSAW ≤ s.L then some (s.L - s.cfg.dSAW + s.cfg.lead) else none

/-- A late plan is moved up, and marked (R125). -/
def State.moveLate (s : State) (p : Coord) : Coord × Bool :=
  match s.reachable with
  | some r => if p < r then (r, true) else (p, false)
  | none => (p, false)

/-- What planning finds (R126, R127). -/
inductive PlanOutcome
  | plan (p : Coord) (late : Bool)
  | noPlan (r : NoPlanReason)
  deriving DecidableEq, Repr

/-- In DRAINING, a plan at or above the tail coordinate, or tail release made: no plan (R127, TAIL). -/
def State.planIsTail (s : State) (p : Coord) : Bool :=
  s.rc.run == .draining && (s.rc.tailReleased || (match s.rc.tail with | some t => decide (t ≤ p) | none => false))

/-- Compute the plan from the state of the moment (R124, R125), or why there is none (R127). -/
def State.computePlan (s : State) : PlanOutcome :=
  let t := s.activeTemplate
  let moved := s.moveLate (planCoord s.head t.target t.minLen t.maxLen s.earliest)
  if s.planIsTail moved.1 then .noPlan .tail
  else if s.cps.cutCounter = Config.sawCutMax then .noPlan .count
  else .plan moved.1 moved.2

/-- Move the saw to a state: a no-plan reason belongs to READY, a wait reason to PLANNED (R120, R127; log 15). -/
def Cps.enter (c : Cps) (x : SawState) : Cps :=
  { c with saw := x, noPlan := if x = .ready then c.noPlan else .none, wait := if x = .planned then c.wait else .none }

/-- The plan becomes absent, and with it the LATE flag (R120). -/
def Cps.dropPlan (c : Cps) : Cps := { c with plan := none, planLate := false }

/-! ### The GO threshold (R128 to R130) -/

/-- Ask for the reservation, piece slots first, and go to GO where it is granted (R129, R130). -/
def State.askReservation (s : State) : State :=
  if s.pt.available < s.rc.active then s.onCps fun c => { c with wait := .pieces }
  else if s.ts.available < s.rc.active then s.onCps fun c => { c with wait := .pool }
  else
    ((s.setZonesAside s.rc.active).onPt fun p => { p with setAside := p.setAside + s.rc.active }).onCps fun c =>
      { c.enter .go with timeout := some s.cfg.cutTimeout }

/-- Whether the threshold is reached by a plan at p: L at or above d_SAW, and L − d_SAW at or above p − lead (R128). -/
def State.thresholdReached (s : State) (p : Coord) : Bool :=
  match s.reachable with
  | some r => decide (p ≤ r)
  | none => false

/-- A plan that has become late at the present L moved, with the LATE flag set (R125, R128). -/
def State.movePlan (s : State) (p : Coord) : State :=
  if (s.moveLate p).2 then s.onCps fun c => { c with plan := some (s.moveLate p).1, planLate := true } else s

/-- Judge the GO threshold in PLANNED (R128). DESIGN CHOICE (log 64): in DRAINING a late plan moved here to or above the tail coordinate is
kept, PLANNED or given GO, until the next planning. -/
def State.judgeGo (s : State) : State :=
  match s.cps.saw, s.cps.plan with
  | .planned, some p =>
    let s1 := s.movePlan p
    if s1.thresholdReached (s.moveLate p).1 then
      if s1.pins.sawReady then s1.askReservation else s1.onCps fun c => { c with wait := .saw }
    else s1.onCps fun c => { c with wait := .none }
  | _, _ => s

/-- Planning, done in READY and PLANNED (R126), with the judgement that follows it in PLANNED (R128). -/
def State.replan (s : State) : State :=
  if s.cps.saw = .ready ∨ s.cps.saw = .planned then
    match s.computePlan with
    | .plan p late => (s.onCps fun c => { c.enter .planned with plan := some p, planLate := late }).judgeGo
    | .noPlan r => s.onCps fun c => { (c.enter .ready).dropPlan with noPlan := r }
  else s

/-- Entry to READY, where the planner plans at once (R126, R139). -/
def State.sawToReady (s : State) : State := (s.onCps fun c => c.enter .ready).replan

/-- Entry to RETURN, left at once where SAW-READY is high (R139). -/
def State.sawToReturn (s : State) : State :=
  let s1 := s.onCps fun c => c.enter .return_
  if s1.pins.sawReady then s1.sawToReady else s1

/-- Whether a range of change, its end perhaps without limit, meets [h, h + Mx] (R126). -/
def State.meetsWindow (s : State) (lo : Coord) (hi : Option Coord) : Bool :=
  decide (lo ≤ s.head + s.activeTemplate.maxLen) && (match hi with | some e => decide (s.head < e) | none => true)

/-- Planning after a claim that changed a range (R66, R126). -/
def State.replanRange (s : State) (lo : Coord) (hi : Option Coord) : State :=
  if s.meetsWindow lo hi then s.replan else s

/-- Every item of a saw that the return to IDLE leaves (R121): HELD, no plan, no reasons, no timeout, no reservation. -/
def State.restSaw (s : State) : State :=
  s.returnReservation.onCps fun c => { (c.enter .held).dropPlan with timeout := none }

/-- The Cut Planner's work on a travel event: planning while the plan is LATE or the earliest stretch has an unknown end
(R126), else the judgement of the threshold (R128). -/
def State.sawTravel (s : State) : State :=
  if s.cps.planLate || (match s.earliest with | some r => r.z1.isNone | none => false) then
    (if s.cps.saw = .ready ∨ s.cps.saw = .planned then s.replan else s.judgeGo)
  else s.judgeGo

end Sys2Proof.Machine
end

