-- ==== Sys2Proof/Machine/Windows.lean ====
section
/-! DEFINITION. The station windows and the marker lines (08): fills, hits, and the judgement of a line. -/

namespace Sys2Proof.Machine

open Sys2Proof

/-! ### Windows -/

/-- ACTIVE's mark set; no disposition is marked while ACTIVE is empty (R170). -/
def State.markSet (s : State) : DispSet :=
  match s.tps.active with
  | some g => g.template.markSet
  | none => 0

/-- Whether a zone's disposition is marked (R170). -/
def State.marks (s : State) (z : Zone) : Bool := hasDisp s.markSet z.disposition

/-- The zone that follows the zone with a key in a list. -/
def following (k : Key) : List Zone → Option Zone
  | [] => none
  | z :: zs => if z.key = k then zs.head? else following k zs

/-- The second record for the zone with a key (R164, R170). -/
def State.nextRecord (s : State) (st : Strand) (k : Key) : Option NextZone :=
  (following k (s.track st)).map fun z => { start := z.start, key := z.key, marked := s.marks z }

/-- What a fill finds (R165). -/
def State.fillOf (s : State) (st : Strand) : Window :=
  if s.rc.run = .idle ∨ s.isActive st = false then .empty
  else
    match s.markerPoint with
    | none => .empty
    | some x =>
      if x < s.ts.first[st] then .empty
      else
        match (s.track st).find? (·.holds x) with
        | some z => .valid z (s.nextRecord st z.key)
        | none => .empty

/-- Write a window. -/
def State.setWindow (s : State) (st : Strand) (w : Window) : State :=
  s.onSwm fun m => { m with windows := m.windows.set st w }

/-- Whether a travel event makes a fill (R166). -/
def State.needsFill (s : State) (st : Strand) : Bool :=
  match s.swm.windows[st] with
  | .lapsed => true
  | .empty => true
  | .valid z _ =>
    match s.markerPoint with
    | none => true
    | some x => !z.holds x

/-! ### Marker lines -/

/-- Write a line. -/
def State.setLine (s : State) (st : Strand) (l : MarkLine) : State :=
  s.onSwm fun m => { m with lines := m.lines.set st l }

/-- A line OFF, its isolation as it was. -/
def MarkLine.lower (l : MarkLine) : MarkLine := { l with on := false, onPoint := none }

/-- The minimum-gap test (R172). -/
def State.bridges (s : State) (next : Option NextZone) : Bool :=
  match next, s.markerPoint with
  | some n, some x => n.marked && decide (n.start - x < s.cfg.minGap)
  | _, _ => false

/-- An ON line whose target is unmarked: the minimum mark length, then the minimum-gap test (R171 steps 3 to 5). -/
def State.unmarkedLine (s : State) (l : MarkLine) (next : Option NextZone) : MarkLine :=
  if l.on = false then l
  else if s.L < l.onPoint.getD 0 + s.cfg.minMark then l
  else if s.bridges next then l
  else l.lower

/-- The judgement of R171 in its own order. -/
def State.judgeByWindow (s : State) (st : Strand) (l : MarkLine) : MarkLine :=
  match s.swm.windows[st] with
  | .lapsed => l
  | .empty => s.unmarkedLine l none
  | .valid z next =>
    if s.marks z then (if l.on then l else { l with on := true, onPoint := some s.L })
    else s.unmarkedLine l next

/-- Whether the marker point is at or above the tail coordinate (R174). -/
def State.pastTail (s : State) : Bool :=
  match s.markerPoint, s.rc.tail with
  | some x, some t => decide (t ≤ x)
  | _, _ => false

/-- The judgement of a line (R171), with the cases that come first: isolation (R176), marker enables and inactive strands
(R175), the idle policy (R173), DRAINING (R174). -/
def State.judged (s : State) (st : Strand) (l : MarkLine) : MarkLine :=
  if l.isolated then l
  else if hasStrand s.cfg.markerEnables st = false ∨ s.isActive st = false then l.lower
  else
    match s.rc.run with
    | .idle => (match s.cfg.idlePolicy with | .off => l.lower | .retain => l)
    | .armed => (match s.cfg.idlePolicy with | .off => l.lower | .retain => l)
    | .dead => (match s.cfg.idlePolicy with | .off => l.lower | .retain => l)
    | .running => s.judgeByWindow st l
    | .draining => if s.rc.tailReleased || s.pastTail then l.lower else s.judgeByWindow st l

/-- Judge one line. -/
def State.judgeLine (s : State) (st : Strand) : State := s.setLine st (s.judged st s.swm.lines[st])

/-- Judge every line. -/
def State.judgeLines (s : State) : State := strands.foldl (fun s st => s.judgeLine st) s

/-- The work of a travel event on one strand: fill or keep, then judge (R166, R171). -/
def State.travelWindow (s : State) (st : Strand) : State :=
  (if s.needsFill st then s.setWindow st (s.fillOf st) else s).judgeLine st

/-- Every window EMPTY and every line that is not isolated OFF (R169, R175): what a return to IDLE does. -/
def State.darkMarkers (s : State) : State :=
  s.onSwm fun m =>
    { windows := Vector.replicate 4 .empty, lines := m.lines.map fun l => if l.isolated then l else l.lower }

/-! ### Hits (R167, R168) -/

/-- What a claim hands on (R66): the keys of the zones it split, freed or made CUT, and of those it wrote otherwise. -/
structure Changes where
  gone : List Key
  written : List Key
  deriving DecidableEq, Repr

/-- The window of a strand after a hand-on; `none` where the hand-on names neither of its keys. -/
def State.hitWindow (s : State) (ch : Changes) (st : Strand) : Option Window :=
  match s.swm.windows[st] with
  | .lapsed => none
  | .empty => none
  | .valid z next =>
    if ch.gone.contains z.key then some .lapsed
    else if ch.written.contains z.key then
      match (s.track st).find? (fun y => y.key == z.key) with
      | some y => some (.valid y (s.nextRecord st y.key))
      | none => some .lapsed
    else
      match next with
      | some n => if ch.gone.contains n.key || ch.written.contains n.key then some (.valid z (s.nextRecord st z.key)) else none
      | none => none

/-- A hand-on at one window: the hit, then the judgement of its line (R167, R168). -/
def State.hit (s : State) (ch : Changes) (st : Strand) : State :=
  match s.hitWindow ch st with
  | some w => (s.setWindow st w).judgeLine st
  | none => s

/-- A hand-on at every window. -/
def State.hitAll (s : State) (ch : Changes) : State := strands.foldl (fun s st => s.hit ch st) s

/-- A commit at the windows: next mark flags anew, every line judged (R170). -/
def State.remark (s : State) : State :=
  (strands.foldl (fun s st =>
    match s.swm.windows[st] with
    | .valid z _ => s.setWindow st (.valid z (s.nextRecord st z.key))
    | .lapsed => s
    | .empty => s) s).judgeLines

end Sys2Proof.Machine
end

