-- ==== Sys2Proof/Machine/Claims.lean ====
section
/-! DEFINITION. How the Track Store takes a claim (03, sections 3.3 to 3.5): clip, split, mark, merge, hand on; boundaries; the tail close; an override. -/

namespace Sys2Proof

open Machine

namespace Machine

/-- A claim being applied: the state, what it has to hand on (R66), the range it has changed, and the pieces whose lists
or zones it has changed. -/
structure Work where
  s : State
  gone : List Key
  written : List Key
  range : Option (Coord × Option Coord)
  pieces : List Key
  deriving DecidableEq, Repr

/-- A claim that has changed nothing yet. -/
def State.work (s : State) : Work := { s := s, gone := [], written := [], range := none, pieces := [] }

/-- The greater of two ends, an absent end being without limit. -/
def laterEnd : Option Coord → Option Coord → Option Coord
  | some a, some b => some (max a b)
  | _, _ => none

/-- Widen the range of change (R66, log 17). -/
def Work.widen (w : Work) (lo : Coord) (hi : Option Coord) : Work :=
  { w with
    range := match w.range with
      | none => some (lo, hi)
      | some (a, b) => some (min a lo, laterEnd b hi) }

/-- Note a zone written: the range of change is widened by it (R66, log 17). -/
def Work.touch (w : Work) (z : Zone) : Work := { w with written := w.written ++ [z.key] }.widen z.start z.stop?

/-- Note a zone replaced by another record; one that leaves it as it was changes no zone (R66, log 42). -/
def Work.replaced (w : Work) (old new : Zone) : Work := if new = old then w else w.touch old

/-- Note an edge between zones made by a split or removed by a merge: the range of change is widened by its coordinate
(R66, log 17). -/
def Work.edgeAt (w : Work) (y : Coord) : Work := w.widen y (some y)

/-! ### Splits (R62, R63) -/

/-- The lower half of a zone split at y: it keeps its key, and is CLOSED where the zone was OPEN (R62). -/
def Zone.lowerHalf (z : Zone) (y : Coord) : Zone :=
  { z with place := match z.place with | .opened => .closed y | .closed _ => .closed y | .cut _ p => .cut y p,
           findings := z.findings.filter fun f => decide (f.loc < y) }

/-- The upper half, in the slot taken: every other field copied (R62). -/
def Zone.upperHalf (z : Zone) (y : Coord) (k : Key) : Zone :=
  { z with key := k, start := y, findings := z.findings.filter fun f => decide (y ≤ f.loc) }

/-- Split the zone of a list that holds y strictly inside (R62). -/
def splitList (y : Coord) (k : Key) : List Zone → List Zone
  | [] => []
  | z :: zs => if z.strictlyInside y then z.lowerHalf y :: z.upperHalf y k :: zs else z :: splitList y k zs

end Machine

/-- Whether a zone would change under a claim; a finding alone is no change (R62). -/
def Claim.changes (c : Claim) (z : Zone) : Bool :=
  match c.action with
  | .add k => !hasCond z.conds k || decide (z.severity.rank < c.severity.rank)
  | .removeHeld => hasCond z.conds .held

namespace Machine

/-- A list once an edge of a claim has been dealt with: the zones, the keys of zones included whole, the work. -/
structure Edged where
  zs : List Zone
  whole : List Key
  w : Work
  deriving DecidableEq, Repr

end Machine

/-- What a take for a claim is: mandatory where the claim is, and where the open zone is split at the upper edge (R63). -/
def Claim.takeKind (c : Claim) (upper : Bool) (z : Zone) : TakeKind :=
  if c.mandatory || (upper && z.isOpen) then .mandatory else .nonMandatory

/-- One edge y of a claim in a list (R62, R63): no zone straddles it; or the zone would not change, and is left unsplit
and marked whole; or it is split; or, where the take is refused, the split is coarse, toward the worse state of the
metal. -/
def Claim.edge (c : Claim) (upper : Bool) (y : Coord) (e : Edged) : Edged :=
  match e.zs.find? (·.strictlyInside y) with
  | none => e
  | some z =>
    if c.changes z = false then { e with whole := e.whole ++ [z.key] }
    else
      match e.w.s.takeZone (c.takeKind upper z) with
      | some (k, s1) =>
        { e with zs := splitList y k e.zs,
                 w := { e.w with s := s1, gone := e.w.gone ++ [z.key], written := e.w.written ++ [k] }.edgeAt y }
      | none =>
        { e with whole := (match c.action with | .add _ => e.whole ++ [z.key] | .removeHeld => e.whole),
                 w := { e.w with s := e.w.s.raise .coarse } }

namespace Machine

/-! ### Marking (R64, R68) -/

/-- Whether a zone lies wholly inside [y1, y2). -/
def Zone.within (z : Zone) (y1 y2 : Coord) : Bool :=
  decide (y1 ≤ z.start) && (match z.stop? with | some e => decide (e ≤ y2) | none => false)

end Machine

/-- A zone marked by a claim: the condition, the severity, and the finding where its coordinate lies in the zone (R64);
a removal takes HELD away and touches nothing else (R68). -/
def Claim.mark (c : Claim) (z : Zone) : Zone :=
  match c.action with
  | .add k =>
    let z1 : Zone := { z with conds := addCond z.conds k, severity := z.severity.sup c.severity }
    match c.finding with
    | some f => if z.holds f.loc then z1.addFinding f else z1
    | none => z1
  | .removeHeld => { z with conds := dropCond z.conds .held }

/-- Mark the zones of a list whose keys are named, noting those that change. -/
def Claim.markAll (c : Claim) (keys : List Key) : List Zone → Work → List Zone × Work
  | [], w => ([], w)
  | z :: zs, w =>
    if keys.contains z.key then
      let z1 := c.mark z
      let r := c.markAll keys zs (w.replaced z z1)
      (z1 :: r.1, r.2)
    else
      let r := c.markAll keys zs w
      (z :: r.1, r.2)

namespace Machine

/-! ### Merges (R65) -/

/-- Whether two neighbours merge: conditions, severity, override, billet and generation equal (R65). -/
def Zone.mergesWith (a b : Zone) : Bool :=
  a.conds == b.conds && a.severity == b.severity && a.override == b.override && a.billet == b.billet
    && a.generation == b.generation

/-- The lower zone absorbs the upper (R65). -/
def Zone.absorb (a b : Zone) : Zone :=
  b.findings.foldl Zone.addFinding { a with place := b.place, truncated := a.truncated || b.truncated }

/-- Note a merge: the upper zone is freed, the lower one written, the edge between them gone (R65, R45). -/
def Work.merged (w : Work) (a b : Zone) : Work :=
  { w with s := w.s.freeZone b.key, gone := w.gone ++ [b.key], written := w.written ++ [a.key] }.edgeAt b.start

/-- Check edges upward from the one above `cur`: `n` of them must be checked, and past those checking ends at the first
edge that does not merge (R65). -/
def mergeScan (cur : Zone) : List Zone → Nat → Work → List Zone × Work
  | [], _, w => ([cur], w)
  | z :: zs, n, w =>
    if cur.mergesWith z then mergeScan (cur.absorb z) zs (n - 1) (w.merged cur z)
    else if n ≤ 1 then (cur :: z :: zs, w)
    else
      let r := mergeScan z zs (n - 1) w
      (cur :: r.1, r.2)

/-- The merge checks of a claim in a list: from the edge below the first zone marked to the edge above the last (R65). -/
def mergePass (keys : List Key) (zs : List Zone) (w : Work) : List Zone × Work :=
  let i := zs.findIdx fun z => keys.contains z.key
  let j := zs.length - 1 - (zs.reverse.findIdx fun z => keys.contains z.key)
  if i < zs.length then
    match zs.drop (i - 1) with
    | [] => (zs, w)
    | c :: rest =>
      let r := mergeScan c rest (if i = 0 then j + 1 else j - i + 2) w
      (zs.take (i - 1) ++ r.1, r.2)
  else (zs, w)

/-! ### The routine on one list, and on a strand (R60, R61) -/

end Machine

/-- Whether a claim marks a zone that lies in its range: a removal marks the zones that hold HELD alone, so that one which finds
none marks none, checks no edge and changes nothing (R64, R68, R192; log 58). -/
def Claim.marks (c : Claim) (z : Zone) : Bool :=
  match c.action with
  | .add _ => true
  | .removeHeld => hasCond z.conds .held

/-- The keys of the zones that a claim marks in a list: wholly inside, or named whole (R64). -/
def Claim.markKeys (c : Claim) (y1 y2 : Coord) (e : Edged) : List Key :=
  (e.zs.filter fun z => c.marks z && (z.within y1 y2 || e.whole.contains z.key)).map (·.key)

/-- Splits, marking and merges in one list, with the part [y1, y2) of the range that lies in it (R61 to R65). -/
def Claim.applyList (c : Claim) (y1 y2 : Coord) (zs : List Zone) (w : Work) : List Zone × Work :=
  let e := c.edge true y2 (c.edge false y1 { zs := zs, whole := [], w := w })
  let keys := c.markKeys y1 y2 e
  let r := c.markAll keys e.zs e.w
  mergePass keys r.1 r.2

namespace Machine

/-- Whether a piece of work has anything to hand on. -/
def Work.dirty (w : Work) : Bool := !(w.gone.isEmpty && w.written.isEmpty)

/-- Length of the overlap of two ranges. -/
def overlapLen (a b c d : Coord) : Nat := min b d - max a c

/-- Write one piece record. -/
def State.setPiece (s : State) (k : Key) (f : Piece → Piece) : State :=
  s.onPt fun p => { p with pieces := p.pieces.map fun q => if q.key = k then f q else q }

end Machine

/-- A claim on the zone list of one piece; the list and its changes are handed to the Piece Table (R53, R61). -/
def Claim.onPiece (c : Claim) (hi : Coord) (w : Work) (p : Piece) : Work :=
  let y1 := max c.x1 p.head
  let y2 := min hi p.tail
  if y1 < y2 then
    let r := c.applyList y1 y2 p.zones { w with gone := [], written := [] }
    if r.2.dirty then
      { r.2 with s := r.2.s.setPiece p.key fun q => { q with zones := r.1 },
                 gone := w.gone ++ r.2.gone, written := w.written ++ r.2.written, pieces := w.pieces ++ [p.key] }
    else { r.2 with gone := w.gone, written := w.written }
  else w

/-- A claim on the track of its strand, whose stretch ends at `stop` (R61). -/
def Claim.onTrack (c : Claim) (hi stop : Coord) (w : Work) : Work :=
  let y1 := max c.x1 (w.s.ts.first[c.strand])
  let y2 := min hi stop
  if y1 < y2 then
    let r := c.applyList y1 y2 (w.s.track c.strand) w
    { r.2 with s := r.2.s.setTrack c.strand r.1 }
  else w

namespace Machine

/-! ### Hand-on (R66) -/

/-- The verdict of a piece computed again; a change of it after arrival sets AMENDED and raises the cause (R146, R155). -/
def State.refreshVerdict (s : State) (k : Key) : State :=
  match s.pieceByKey k with
  | none => s
  | some p =>
    let v := verdictOf p.zones
    if v = p.verdict then s
    else
      (s.setPiece k fun q => { q with verdict := v, amended := q.amended || q.state == .arrived }).raiseIf
        (p.state == .arrived) .amended

/-- Hand on what a claim changed: windows, pieces, planner; a claim that changed no zone hands nothing on (R66). -/
def Work.handOn (w : Work) : State :=
  if w.dirty then
    let s1 := w.s.hitAll { gone := w.gone, written := w.written }
    let s2 := w.pieces.foldl State.refreshVerdict s1
    match w.range with
    | some (lo, hi) => s2.replanRange lo hi
    | none => s2
  else w.s

/-- The upper end of a claim's range once future metal is dropped from it (R60). -/
def State.clipTop (s : State) (c : Claim) : Coord :=
  if s.endsOpen c.strand then min c.x2 (s.trackEnd c.strand) else c.x2

/-- How much of a claim's range is held metal (R55, R60). -/
def State.heldLength (s : State) (c : Claim) (hi : Coord) : Nat :=
  (s.piecesOf c.strand).foldl (fun n p => n + overlapLen c.x1 hi p.head p.tail) 0
    + overlapLen c.x1 hi (s.ts.first[c.strand]) (s.trackEnd c.strand)

/-- The Track Store takes a condition claim whole (R59 to R66): the clip, with ORPHAN where any part of the range that is
not future metal is not held; the lists in coordinate order; the hand-on. -/
def State.takeClaim (s : State) (c : Claim) : State :=
  if c.x2 ≤ c.x1 then s
  else if s.isActive c.strand = false then s.raise .orphan
  else
    let hi := s.clipTop c
    let s1 := s.raiseIf (decide (s.heldLength c hi < hi - c.x1)) .orphan
    let w1 := (s.piecesOf c.strand).foldl (fun w p => c.onPiece hi w p) s1.work
    (c.onTrack hi (s.trackEnd c.strand) w1).handOn

/-- Take several claims, in order. -/
def State.takeClaims (s : State) (cs : List Claim) : State := cs.foldl State.takeClaim s

/-- Claims handed by an event (R59, log 4): taken within it, or left for later. -/
def State.handClaims (s : State) (by_ : Sender) (t : Taking) (cs : List Claim) : State :=
  match t with
  | .atOnce => s.takeClaims cs
  | .later => s.onTs fun x => { x with handed := x.handed ++ cs.map fun c => (by_, c) }

/-- Take the oldest claim that a sender has handed, where there is one. -/
def State.takeHanded (s : State) (by_ : Sender) : State :=
  match s.ts.handed.find? (fun h => h.1 == by_) with
  | some h => (s.onTs fun x => { x with handed := x.handed.erase h }).takeClaim h.2
  | none => s

/-- Take every claim that a sender has handed, in order (R78). -/
def State.takeAllHandedBy (s : State) (by_ : Sender) : State :=
  ((s.onTs fun x => { x with handed := x.handed.filter fun h => h.1 != by_ })).takeClaims
    ((s.ts.handed.filter fun h => h.1 == by_).map (·.2))

/-- Take every claim handed, in order (R93). -/
def State.takeAllHanded (s : State) : State :=
  (s.onTs fun x => { x with handed := [] }).takeClaims (s.ts.handed.map (·.2))

/-! ### Boundaries (R56 to R58, R110) -/

/-- A strand that is late stops being late at a boundary that closes or reopens its open zone at b (R110). -/
def State.clearLate (s : State) (st : Strand) (b : Coord) : State :=
  if hasStrand s.tps.late st then
    s.onTps fun t => { t with late := t.late &&& ~~~ strandMask st, commitCoord := t.commitCoord.map fun c => max c b }
  else s

/-- What the sender of a boundary gives the new zone (R56). -/
structure NewZone where
  conds : CondSet
  billet : Nat
  generation : Nat
  deriving DecidableEq, Repr

/-- A new OPEN zone with the sender's fields (R56). -/
def NewZone.at_ (n : NewZone) (st : Strand) (k : Key) (b : Coord) (fs : List Finding) : Zone :=
  { key := k, strand := st, start := b, place := .opened, conds := n.conds, severity := .none, override := none,
    billet := n.billet, generation := n.generation, findings := fs, truncated := false }

/-- A boundary at b above the open zone's start, its slot granted (R56). -/
def State.closeAndOpen (s : State) (st : Strand) (zs : List Zone) (z : Zone) (b : Coord) (n : NewZone) (k : Key) : State :=
  let old : Zone := { z with place := .closed b, findings := z.findings.filter fun f => decide (f.loc < b) }
  let new : Zone := n.at_ st k b (z.findings.filter fun f => decide (b ≤ f.loc))
  let r := mergeScan old [new] 1 ((s.work.touch z).touch new)
  ({ r.2 with s := (r.2.s.setTrack st (zs ++ r.1)).clearLate st b } : Work).handOn

/-- A boundary at the open zone's own start: it is reopened in place (R57). -/
def State.reopen (s : State) (st : Strand) (zs : List Zone) (z : Zone) (n : NewZone) : State :=
  let new : Zone := n.at_ st z.key z.start []
  let w := s.work.replaced z new
  let r := match zs.getLast? with
    | some prev =>
      let m := mergeScan prev [new] 1 w
      (zs.dropLast ++ m.1, m.2)
    | none => ([new], w)
  ({ r.2 with s := (r.2.s.setTrack st r.1).clearLate st z.start } : Work).handOn

/-- A boundary whose take is refused: the open zone takes the union of conditions, COARSE is raised, and a commit
boundary makes the strand late (R58, R110). -/
def State.coarseBoundary (s : State) (st : Strand) (zs : List Zone) (z : Zone) (n : NewZone) (commit : Bool) : State :=
  let z1 : Zone := { z with conds := z.conds ||| n.conds }
  let s1 := ((s.setTrack st (zs ++ [z1])).raise .coarse)
  let s2 := if commit then s1.onTps fun t => { t with late := t.late ||| strandMask st } else s1
  (s2.work.replaced z z1).handOn

/-- A boundary (R56 to R58): the open zone of a strand is closed at b, or at its start where b lies below it (R19), and a
new open zone is opened there. Where the track ends in no open zone there is nothing to close (log 16). -/
def State.boundary (s : State) (st : Strand) (b : Coord) (n : NewZone) (commit : Bool) : State :=
  match (s.track st).getLast? with
  | none => s
  | some z =>
    if z.isOpen = false then s
    else if z.start < b then
      match s.takeZone .mandatory with
      | some (k, s1) => s1.closeAndOpen st (s.track st).dropLast z b n k
      | none => s.coarseBoundary st (s.track st).dropLast z n commit
    else s.reopen st (s.track st).dropLast z n

/-- The fields Run Control and the Template Store give a new open zone (R33, R108): the live entries' conditions, the
newest billet, the generation of ACTIVE. -/
def State.newZone (s : State) (st : Strand) : NewZone :=
  { conds := (s.rc.future[st]).conds, billet := s.newestOrdinal, generation := s.activeGeneration }

/-- A boundary at the boundary coordinate of a strand, with those fields. -/
def State.boundaryHere (s : State) (st : Strand) (commit : Bool) : State :=
  s.boundary st (s.boundaryCoord st) (s.newZone st) commit

/-! ### Tail close (R54) -/

/-- The open zone of a strand closed at the tail coordinate t (R54). -/
def State.tailClose (s : State) (st : Strand) (t : Coord) : State :=
  match (s.track st).getLast? with
  | none => s
  | some z =>
    if z.isOpen = false then s
    else
      let rest := (s.track st).dropLast
      let kept := z.findings.filter fun f => decide (f.loc < t)
      let z1 : Zone := { z with place := .closed t, findings := kept, truncated := z.truncated || decide (kept.length < z.findings.length) }
      if z.start < t ∨ rest = [] then
        ((s.setTrack st (rest ++ [z1])).clearLate st t |>.work.touch z).handOn
      else
        let w := (((s.setTrack st rest).freeZone z.key).clearLate st t).work.touch z
        ({ w with gone := [z.key] } : Work).handOn

/-! ### Override (R69) -/

/-- The list with the override of one zone set. -/
def setOverride (k : Key) (v : Option Disp) (zs : List Zone) : List Zone :=
  zs.map fun z => if z.key = k then { z with override := v } else z

/-- The zone that a key names, wherever it stands (R44): a current key. -/
def State.zoneByKey (s : State) (k : Key) : Option Zone :=
  (s.ts.tracks.toList.flatten ++ s.pt.pieces.flatMap (·.zones)).find? (fun z => z.key == k)

/-- An override applied, with the merge checks at the zone's two edges (R69). An override that gives the value the zone has
already, and merges nothing, changes no zone and hands nothing on (R66, log 42). -/
def State.applyOverride (s : State) (z : Zone) (v : Option Disp) : State :=
  let w := s.work.replaced z { z with override := v }
  match z.piece? with
  | some pk =>
    match s.pieceByKey pk with
    | some p =>
      let r := mergePass [z.key] (setOverride z.key v p.zones) w
      ({ r.2 with s := r.2.s.setPiece pk fun q => { q with zones := r.1 }, pieces := [pk] } : Work).handOn
    | none => s
  | none =>
    let r := mergePass [z.key] (setOverride z.key v (s.track z.strand)) w
    ({ r.2 with s := r.2.s.setTrack z.strand r.1 } : Work).handOn

end Machine

end Sys2Proof
end

