-- ==== Sys2Proof/Machine/Sets.lean ====
section
/-! DEFINITION. Cut sets (02 R38, R39, R42; 03 R70, R71; 07): the cut at the Track Store, the birth of a set, the frees of pieces, tail release, the billet drop and the end of DRAINING. -/

namespace Sys2Proof.Machine

open Sys2Proof

/-! ### Moving zones out of a track (R70, R71) -/

/-- A zone made CUT, with the piece it now belongs to (R70). -/
def Zone.toPiece (k : Key) (c : Coord) (z : Zone) : Zone := { z with place := .cut (z.stop?.getD c) k }

/-- What a cut or a tail release takes out of one track: the state, the zones moved, and the keys gone. -/
structure Moved where
  s : State
  zones : List Zone
  gone : List Key
  written : List Key
  deriving DecidableEq, Repr

/-- The zones of a track below c leave it and become CUT; the strand first coordinate becomes c (R70 steps 2 and 3). -/
def State.moveBelow (s : State) (st : Strand) (c : Coord) (k : Key) (zs : List Zone) : State × List Zone :=
  let moved := (zs.filter fun z => decide (z.start < c)).map (Zone.toPiece k c)
  ((s.setTrack st (zs.filter fun z => decide (c ≤ z.start))).setFirst st c, moved)

/-- A cut at c in the track of one strand, its split by the kind of take given (R70). -/
def State.cutTrack (s : State) (st : Strand) (c : Coord) (k : Key) (kind : TakeKind) : Moved :=
  match (s.track st).find? (·.strictlyInside c) with
  | some z =>
    match s.takeZone kind with
    | some (n, s1) =>
      let r := s1.moveBelow st c k (splitList c n (s.track st))
      { s := r.1, zones := r.2, gone := z.key :: r.2.map (·.key), written := [n] }
    | none =>
      let r := s.moveBelow st c k (s.track st)
      { s := r.1, zones := r.2, gone := r.2.map (·.key), written := [] }
  | none =>
    let r := s.moveBelow st c k (s.track st)
    { s := r.1, zones := r.2, gone := r.2.map (·.key), written := [] }

/-! ### Births (R148 to R150) -/

/-- The flags a cut carries (R148). -/
structure CutFlags where
  late : Bool
  unplanned : Bool
  shifted : Bool
  tail : Bool
  deriving DecidableEq, Repr

/-- A piece record at its birth, its verdict computed (R145, R148, R150). -/
def newPiece (k : Key) (st : Strand) (n : Nat) (head tail : Coord) (zs : List Zone) (f : CutFlags) : Piece :=
  { key := k, strand := st, cutNumber := n, head := head, tail := tail, zones := zs, verdict := verdictOf zs,
    state := .transit, unplanned := f.unplanned, late := f.late, shifted := f.shifted, tailFlag := f.tail, amended := false }

/-- How a new cut set is born (R149): ARRIVED where the head mark is set, which clears it; TRANSIT where the queue has a
place, and its number joins the tail; else ARRIVED, with LATE added. -/
def State.birth (s : State) (n : Nat) (ps : List Piece) : State :=
  if s.pt.headMark then
    (s.onPt fun p => { p with pieces := p.pieces ++ ps.map (fun q => { q with state := .arrived }), headMark := false }).raise .arrived
  else if s.pt.queue.length < Config.transitQueue then
    s.onPt fun p => { p with pieces := p.pieces ++ ps, queue := p.queue ++ [n] }
  else
    (s.onPt fun p =>
      { p with pieces := p.pieces ++ ps.map (fun q => { q with state := .arrived, late := true }) }).raise .arrived

/-- The billet drop: the oldest entry is dropped while the second-oldest starts at or below the lowest held coordinate (R42). -/
def dropBillets (low : Coord) : List Billet → List Billet
  | [] => []
  | [b] => [b]
  | b :: c :: bs => if c.start ≤ low then dropBillets low (c :: bs) else b :: c :: bs

/-- Run Control takes the lowest held coordinate (R42). -/
def State.billetDrop (s : State) : State := s.onRc fun c => { c with billets := dropBillets s.lowestHeld c.billets }

/-- What a cut set being made has gathered, strand by strand. -/
structure SetWork where
  s : State
  pieces : List Piece
  ch : Changes
  deriving DecidableEq, Repr

/-- One strand of a recorded cut (R70, R132, R138). -/
def SetWork.cutStrand (n : Nat) (h c : Coord) (reserved : Bool) (f : CutFlags) (w : SetWork) (st : Strand) : SetWork :=
  let k := w.s.takePiece reserved
  let m := k.2.cutTrack st c k.1 (if reserved then .cut else .nonMandatory)
  { s := m.s, pieces := w.pieces ++ [newPiece k.1 st n h c m.zones f],
    ch := { gone := w.ch.gone ++ m.gone, written := w.ch.written ++ m.written } }

/-- A cut recorded at c: its number, the Track Store's cut, the birth, the windows, the last cut, the billet drop
(R132 steps 1 to 4, R133, R138). -/
def State.recordCut (s : State) (c : Coord) (reserved : Bool) (f : CutFlags) : State :=
  let n := s.cps.cutCounter + 1
  let w := s.activeStrands.foldl (SetWork.cutStrand n s.head c reserved f) { s := s, pieces := [], ch := { gone := [], written := [] } }
  let s1 := (w.s.birth n w.pieces).hitAll w.ch
  (s1.onCps fun k => { k with cutCounter := n, lastCut := some (c, n) }).billetDrop

/-! ### Inspection and markers at a return to IDLE (R92) -/

/-- Every queue emptied, every BLIND clear, every mark 0, on one link (R92). -/
def Link.rest (l : Link) : Link := { l with queue := [], blind := none, covered := Vector.replicate 4 0 }

/-- Every tracker IN, every queue, mark and BLIND cleared (R92). -/
def Iu.rest (u : Iu) : Iu :=
  { g0 := u.g0.rest, g1 := u.g1.rest, g2 := u.g2.rest, trackers := Vector.replicate 4 (Vector.replicate 12 Tracker.fresh) }

/-! ### The end of DRAINING (R39) -/

/-- DRAINING gives way to IDLE once the tail has been released and no piece is held (R39), and the blocks take the change:
Inspection Unit (R92), Cut Planner (R121), Piece Table (R159), Station Windows (R169). -/
def State.drainEnd (s : State) : State :=
  if s.rc.run = .draining ∧ s.rc.tailReleased = true ∧ s.pt.pieces = [] then
    ((((s.enter .idle).onRc fun c => { c with active := 0, tail := none, tailReleased := false }).onIu Iu.rest).restSaw.onPt
      fun p => { p with headMark := false }).darkMarkers
  else s

/-! ### Tail release (R38, R71, R142, R150) -/

/-- The saw at tail release (R142): a reservation is returned; PLANNED goes to READY with reason TAIL; GO is given up. -/
def State.sawAtRelease (s : State) : State :=
  match s.cps.saw with
  | .planned => s.onCps fun c => { (c.enter .ready).dropPlan with noPlan := .tail }
  | .go => (s.returnReservation.onCps fun c => { c.enter .fault with timeout := none }).raise .sawFault
  | .fault => s.returnReservation
  | .ready => s
  | .return_ => s
  | .held => s

/-- Whether a strand gives a piece at tail release (R38). -/
def State.givesPiece (s : State) (t : Coord) (st : Strand) : Bool := s.ts.first[st] != t

/-- One strand of a tail release: its zones become a piece, or any zone left is freed (R38, R71). -/
def SetWork.releaseStrand (n : Nat) (t : Coord) (w : SetWork) (st : Strand) : SetWork :=
  let zs := w.s.track st
  if w.s.givesPiece t st then
    let k := w.s.takePiece false
    let moved := zs.map (Zone.toPiece k.1 t)
    { s := (k.2.setTrack st []).setFirst st t,
      pieces := w.pieces ++ [newPiece k.1 st n (w.s.ts.first[st]) t moved { late := false, unplanned := false, shifted := false, tail := true }],
      ch := { w.ch with gone := w.ch.gone ++ moved.map (·.key) } }
  else
    { w with s := (w.s.freeZones zs).setTrack st [], ch := { w.ch with gone := w.ch.gone ++ zs.map (·.key) } }

/-- The tail released (R38): the saw first, then the pieces, the TAIL set with the next cut number where there is any
piece, and the billet drop. DESIGN CHOICE (log 60): of the marker lines only those whose windows the release hits are judged here (R167,
R174); a line ON over a LAPSED or EMPTY window waits for the travel event at the Station Windows. -/
def State.releaseTail (s : State) (t : Coord) : State :=
  let s1 := s.sawAtRelease
  let n := s1.cps.cutCounter + 1
  let w := s1.activeStrands.foldl (SetWork.releaseStrand n t) { s := s1, pieces := [], ch := { gone := [], written := [] } }
  let s2 := if w.pieces = [] then w.s else (w.s.birth n w.pieces).onCps fun k => { k with cutCounter := n }
  (((s2.onRc fun c => { c with tailReleased := true }).hitAll w.ch).billetDrop).drainEnd

/-- Whether the tail is to be released now (R38): in DRAINING, not yet released, L − d_SAW at or above the tail
coordinate, and a free piece slot for each strand that gives a piece, those of a reservation counted (R142). -/
def State.tailDue (s : State) (t : Coord) : Bool :=
  s.rc.run == .draining && !s.rc.tailReleased && decide (s.cfg.dSAW ≤ s.L) && decide (t ≤ s.L - s.cfg.dSAW)
    && decide ((s.activeStrands.filter (s.givesPiece t)).length ≤ s.pt.free.length)

/-- Tail release where it is due, and the check for the end of DRAINING (R38, R39). -/
def State.tryRelease (s : State) : State :=
  match s.rc.tail with
  | some t => if s.tailDue t then s.releaseTail t else s
  | none => s

/-! ### Frees of pieces (R72, R156 to R158) -/

/-- One piece freed with its zones (R156). -/
def State.freePiece (s : State) (p : Piece) : State :=
  (((s.freeZones p.zones).freePieceSlot p.key).onPt fun t => { t with pieces := t.pieces.filter fun q => q.key != p.key }).hitAll
    { gone := p.zones.map (·.key), written := [] }

/-- The hand-ons of a free (R157): the billet drop; then the deferred tail release with the end of DRAINING, and the
judgement of the GO threshold, in either order. The release is made here even where the travel event that made it due still waits at
Run Control (log 54). -/
def State.afterFree (s : State) (order : FreeOrder) : State :=
  let s1 := s.billetDrop
  match order with
  | .releaseFirst => s1.tryRelease.drainEnd.judgeGo
  | .sawFirst => s1.judgeGo.tryRelease.drainEnd

end Sys2Proof.Machine
end

