-- ==== Sys2Proof/Machine/DieRun.lean ====
section
/-! DEFINITION. The die run (02): START_RUN, NO_BILLET_CHANGE, END_RUN, ABANDON_RUN, READ_BILLETS, the edges of PRESS_RUN, the expiry of future conditions, and READ_POOL (03 R48). -/

namespace Sys2Proof.Machine

open Sys2Proof

/-! ### START-RUN (R26, R27) -/

/-- The TCU set for a new run (R15). -/
def Tcu.startRun (t : Tcu) : Tcu :=
  { t with puller := .a, L := 0, Lhw := 0, Lbase := 0, refCount := t.chA.count, chA := { t.chA with remainder := 0 } }

/-- Run Control set for a new run of a template: its strands, billet 1, and a NOSE entry where the nose length is above 0
(R27 steps 2, 4 and 5; R38). -/
def Rc.startRun (c : Rc) (t : Template) : Rc :=
  { c with
    active := t.strandCount,
    billets := [{ ordinal := 1, start := 0, stop := none, noChangeStops := false }],
    future := Vector.ofFn fun st =>
      if st.val < t.strandCount ∧ 0 < t.noseLen then { FutureList.empty with nose := some t.noseLen } else FutureList.empty,
    deadNote := false, tail := none, tailReleased := false }

/-- The first zone of an active strand (R27 step 6). -/
def State.firstZone (s : State) (st : Strand) : State :=
  match s.takeZone .mandatory with
  | some (k, s1) => (s1.setTrack st [(s.newZone st).at_ st k 0 []]).setFirst st 0
  | none => s.setFirst st 0

/-- The Template Store at START-RUN (R27 step 1, R101, R110). -/
def Tps.startRun (t : Tps) (p : Template) : Tps :=
  { t with active := some { template := p, generation := 1 }, previous := none, commitCoord := none, late := 0 }

/-- The Cut Planner at START-RUN (R120): the saw stays HELD. -/
def Cps.startRun (c : Cps) : Cps := { c.dropPlan with cutCounter := 0, lastCut := none }

/-- Trackers, marks and BLIND states at START-RUN (R92); the queues are as they were. -/
def Iu.startRun (u : Iu) : Iu :=
  let fresh := fun (l : Link) => { l with blind := none, covered := Vector.replicate 4 0 }
  { g0 := fresh u.g0, g1 := fresh u.g1, g2 := fresh u.g2, trackers := Vector.replicate 4 (Vector.replicate 12 Tracker.fresh) }

/-- The markers at START-RUN: every window EMPTY, every isolation ended with its line OFF (R169, R177). -/
def Swm.startRun (m : Swm) : Swm :=
  { windows := Vector.replicate 4 .empty, lines := m.lines.map fun l => if l.isolated then MarkLine.off else l }

/-- A run set up from PENDING (R27): claims still handed find no metal first (log 26). -/
def State.startRun (s : State) (p : Template) : State :=
  let s1 := s.takeAllHanded
  let s2 := (((((s1.onTps fun t => t.startRun p).onRc fun c => c.startRun p).onTcu Tcu.startRun).onIu Iu.startRun).onCps
    Cps.startRun).onPt fun q => { q with headMark := false }
  let s3 := (s2.activeStrands.foldl State.firstZone s2).onSwm Swm.startRun
  (s3.enter .armed).judgeLines

/-- START_RUN (R26, R27). -/
def execStartRun (s : State) : Result :=
  .next (s.request .startRun .startRun fun s =>
    if s.rc.run ≠ .idle then .refuse s .aborted
    else if s.line.valid = false then .refuse s .aborted
    else
      match s.tps.work with
      | none => .refuse s .check
      | some p => if p.inOrder then .ok (s.startRun p) [] else .refuseAt s .check (.field p.badField 0))

/-! ### NO-BILLET-CHANGE (R30) -/

/-- NO_BILLET_CHANGE (R30). -/
def execNoBilletChange (s : State) : Result :=
  .next (s.request .noBilletChange .noBilletChange fun s =>
    if s.rc.run = .dead then .ok (s.onRc fun c => { c with deadNote := true }) [] else .refuse s .aborted)

/-! ### END-RUN (R36, R37) -/

/-- Run Control with no strand, no future entry, no billet and no note (R36, R40). -/
def Rc.stopped (c : Rc) : Rc :=
  { c with active := 0, future := Vector.replicate 4 FutureList.empty, billets := [], deadNote := false, tail := none,
           tailReleased := false }

/-- Every zone of every track freed (R36, R40, R72). -/
def State.freeTracks (s : State) : State :=
  (s.freeZones s.ts.tracks.toList.flatten).onTs fun t => { t with tracks := Vector.replicate 4 [] }

/-- END-RUN in ARMED (R36, R169). -/
def State.endArmed (s : State) : State := ((s.freeTracks.onRc Rc.stopped).enter .idle).darkMarkers

/-- The tail coordinate: the greater of L and the greatest start among the open zones (R37). -/
def State.tailCoord (s : State) : Coord :=
  s.activeStrands.foldl (fun m st => match openStart? (s.track st) with | some a => max m a | none => m) s.L

/-- The END claims of END-RUN at tail coordinate t (R37 step 3). -/
def State.endClaims (s : State) (t : Coord) : List Claim :=
  if 0 < s.activeTemplate.endScrap ∧ 0 < t then
    s.activeStrands.map fun st =>
      { strand := st, x1 := t - s.activeTemplate.endScrap, x2 := t, action := .add .tailBand, severity := .none,
        finding := none, mandatory := true }
  else []

/-- END-RUN in RUNNING or DEAD (R37), the saw's replanning at the change to DRAINING (R121), and the lines (R169). The strands are taken in order
of their numbers (log 44). -/
def State.endMoving (s : State) (taking : Taking) : State :=
  let t := s.tailCoord
  let s1 := s.onRc fun c => { c with future := Vector.replicate 4 FutureList.empty, deadNote := false, tail := some t }
  let s2 := s1.activeStrands.foldl (fun s st => s.tailClose st t) s1
  let s3 := s2.handClaims .runControl taking (s2.endClaims t)
  ((s3.enter .draining).replan).judgeLines

/-- END_RUN (R36, R37). -/
def execEndRun (t : Taking) (s : State) : Result :=
  .next (s.request (.endRun t) .endRun fun s =>
    match s.rc.run with
    | .armed => .ok s.endArmed []
    | .running => .ok (s.endMoving t) []
    | .dead => .ok (s.endMoving t) []
    | .idle => .refuse s .aborted
    | .draining => .refuse s .aborted)

/-! ### ABANDON-RUN (R40) -/

/-- Every piece freed with its zones, the transit queue, the set-aside count and the head mark with them (R40, R159). -/
def State.freePieces (s : State) : State :=
  (s.pt.pieces.foldl (fun s p => (s.freeZones p.zones).freePieceSlot p.key) s).onPt fun p =>
    { p with pieces := [], queue := [], setAside := 0, headMark := false }

/-- The die run given up (R40); claims already handed are taken first and then freed with every zone (R93, log 26). -/
def State.abandon (s : State) : State :=
  let s1 := s.takeAllHanded.freeTracks.freePieces
  let s2 := ((s1.onRc Rc.stopped).onIu Iu.rest).restSaw.darkMarkers
  (s2.onTps fun t => { t with active := none, previous := none, commitCoord := none, late := 0 }).enter .idle

/-- ABANDON_RUN (R40). -/
def execAbandonRun (s : State) : Result :=
  .next (s.request .abandonRun .abandonRun fun s => if s.rc.run = .idle then .refuse s .aborted else .ok s.abandon [])

/-! ### The edges of PRESS-RUN (R28, R29, R31, R32) -/

/-- Write the newest billet entry. -/
def onNewest (f : Billet → Billet) (bs : List Billet) : List Billet :=
  match bs.getLast? with
  | some b => bs.dropLast ++ [f b]
  | none => []

/-- The die run goes to RUNNING, and each line is judged at once (R169). -/
def State.enterRunning (s : State) : State := (s.enter .running).judgeLines

/-- A rising edge in ARMED: the saw goes to READY and plans, unless the hold note is set (R28, R121). -/
def State.pressStarts (s : State) : State :=
  let s1 := s.enterRunning
  if s1.cps.holdNote then s1 else s1.sawToReady

/-- A dead cycle as the rising edge that ends it finds it (R31): the stop coordinate x, its band [b1, b2), whether a new
billet entry is made, and the ends of the WELD and STOP entries, absent where none is made. -/
structure DeadCycle where
  b1 : Coord
  b2 : Coord
  change : Bool
  stopEnd : Option Coord
  weldEnd : Option Coord
  deriving DecidableEq, Repr

/-- What the rising edge finds (R31, R41). With stop_before and stop_after both 0 there is no STOP band (log 14). -/
def State.deadCycle (s : State) (b : Billet) : DeadCycle :=
  let t := s.activeTemplate
  let x := b.stop.getD s.L
  let b2 := x + t.stopAfter
  let change := !s.rc.deadNote && decide (b.ordinal < 65535) && decide (b.start < s.L)
  { b1 := x - t.stopBefore, b2 := b2, change := change,
    stopEnd := if s.L < b2 ∧ ¬(t.stopBefore = 0 ∧ t.stopAfter = 0) then some b2 else none,
    weldEnd := if change = true ∧ 0 < t.weldLen then some (s.L + t.weldLen) else none }

/-- Make or extend the entries that a dead cycle leaves (R31 steps 2 and 3, R33). -/
def FutureList.make (f : FutureList) (d : DeadCycle) : FutureList :=
  { f with stop := (match d.stopEnd with | some e => raiseEnd f.stop e | none => f.stop),
           weld := (match d.weldEnd with | some e => raiseEnd f.weld e | none => f.weld) }

/-- The billet table after the edge (R31 step 1, R41): a new entry, the oldest dropped where it would be the 33rd, or the
newest marked NO-CHANGE-STOPS. -/
def billetsAfter (d : DeadCycle) (L : Coord) (b : Billet) (bs : List Billet) : List Billet :=
  if d.change then
    (if bs.length < Config.billetTable then bs else bs.tail) ++ [{ ordinal := b.ordinal + 1, start := L, stop := none, noChangeStops := false }]
  else onNewest (fun b => { b with noChangeStops := true }) bs

/-- Whether a strand's boundary is due: a new billet, or an entry of a kind that was not live (R31 step 4). -/
def DeadCycle.bounds (d : DeadCycle) (f : FutureList) : Bool :=
  d.change || (d.stopEnd.isSome && f.stop.isNone) || (d.weldEnd.isSome && f.weld.isNone)

/-- The STOP claims of a dead cycle (R31 step 5). -/
def State.stopClaims (s : State) (d : DeadCycle) : List Claim :=
  if d.b1 < min d.b2 s.L then
    s.activeStrands.map fun st =>
      { strand := st, x1 := d.b1, x2 := min d.b2 s.L, action := .add .stop, severity := .none, finding := none, mandatory := true }
  else []

/-- The changes of R31 once the run is RUNNING, its steps in order; the planner takes a change of the entries (R126, log 43).
The strands are taken in order of their numbers (log 44). -/
def State.endDeadCycle (s : State) (b : Billet) (t : Taking) : State :=
  let d := s.deadCycle b
  let due := s.activeStrands.filter fun st => d.bounds s.rc.future[st]
  let s1 := s.onRc fun c =>
    { c with billets := billetsAfter d s.L b c.billets,
             future := Vector.ofFn fun st => if st.val < c.active then c.future[st].make d else c.future[st] }
  let s2 := if s1.rc.future = s.rc.future then s1 else s1.replan
  let s3 := due.foldl (fun s st => s.boundaryHere st false) s2
  s3.handClaims .runControl t (s3.stopClaims d)

/-- A rising edge of PRESS-RUN in DEAD (R31). -/
def State.pressResumes (s : State) (t : Taking) : State :=
  let s1 := s.enterRunning
  match s1.newestBillet with
  | some b => s1.endDeadCycle b t
  | none => s1

/-- PRESS_RUN_RISING (R28, R31, R32). -/
def execPressRunRising (t : Taking) (s : State) : Result :=
  let s := s.onPins fun p => { p with pressRun := true }
  .next (match s.rc.run with
    | .armed => s.pressStarts
    | .dead => s.pressResumes t
    | .idle => s.raise .stray
    | .running => s.raise .stray
    | .draining => s.raise .stray)

/-- A falling edge of PRESS-RUN in RUNNING (R29). -/
def State.pressStops (s : State) : State :=
  ((s.onRc fun c => { c with billets := onNewest (fun b => { b with stop := some s.L }) c.billets, deadNote := false }).enter
    .dead).judgeLines

/-- PRESS_RUN_FALLING (R29, R32). -/
def execPressRunFalling (s : State) : Result :=
  let s := s.onPins fun p => { p with pressRun := false }
  .next (match s.rc.run with
    | .running => s.pressStops
    | .idle => s.raise .stray
    | .armed => s.raise .stray
    | .dead => s.raise .stray
    | .draining => s.raise .stray)

/-! ### Expiry of future conditions (R34) and tail release (R38) -/

/-- The entries of a strand that end at e leave the list, and the open zone is closed at e (R34). -/
def State.expireAt (st : Strand) (s : State) (e : Coord) : State :=
  let s1 := s.onRc fun c => { c with future := c.future.set st (c.future[st].expire e) }
  s1.boundary st e (s1.newZone st) false

/-- The entries of a strand that have expired at the present L, in ascending order of their ends (R34). -/
def State.expireStrand (s : State) (st : Strand) : State :=
  (sortUnique (s.rc.future[st].ends.filter fun e => decide (e ≤ s.L))).foldl (State.expireAt st) s

/-- Run Control's work on a travel event (R34, R38), the strands in order of their numbers (log 44). -/
def State.travelRc (s : State) : State :=
  match s.rc.run with
  | .armed => s.activeStrands.foldl State.expireStrand s
  | .running => s.activeStrands.foldl State.expireStrand s
  | .dead => s.activeStrands.foldl State.expireStrand s
  | .draining => s.tryRelease
  | .idle => s

/-- FUTURE_CONDITION_EXPIRY: Run Control takes the travel event that waits for it; where none waits nothing comes of it
(R14, log 3). -/
def execFutureConditionExpiry (s : State) : Result :=
  .next (if s.travel.rc.isSome then (s.onTravel fun t => { t with rc := none }).travelRc else s)

/-! ### READ-BILLETS (R43) and READ-POOL (R48) -/

/-- One live future entry: kind in the order of R33, and end. -/
def encEntry (kind : Nat) : Option Coord → List Byte
  | some e => enc1 kind ++ encTU (e : Int)
  | none => []

/-- The live entries of a strand, their number first, in the order NOSE, WELD, STOP, HELD (R43, R209; log 46). -/
def encFuture (f : FutureList) : List Byte :=
  enc1 f.ends.length ++ encEntry 0 f.nose ++ encEntry 1 f.weld ++ encEntry 2 f.stop ++ encEntry 3 f.held

/-- One billet entry (R41). -/
def encBillet (b : Billet) : List Byte := enc2 b.ordinal ++ encTU (b.start : Int) ++ encOptTU b.stop ++ encFlag b.noChangeStops

/-- The group of a strand in READ-BILLETS; an inactive strand's is 0 (R43, R209). -/
def State.billetsStrand (s : State) (st : Strand) : List Byte :=
  if s.isActive st then encTU (s.ts.first[st] : Int) ++ encFuture s.rc.future[st] else zeros 5

/-- The READ-BILLETS report (R43). -/
def State.billetsReport (s : State) : List Byte :=
  enc1 s.rc.run.code ++ enc1 s.rc.active ++ encFlag s.rc.deadNote ++ encOptTU s.rc.tail ++ encFlag s.rc.tailReleased
    ++ strands.flatMap s.billetsStrand ++ enc1 s.rc.billets.length ++ s.rc.billets.flatMap encBillet

/-- READ_BILLETS (R43). -/
def execReadBillets (s : State) : Result := .next (s.request .readBillets .readBillets fun s => .deliver s s.billetsReport)

/-- The number of zones in the zone lists of all pieces (R48). -/
def Pt.zoneCount (p : Pt) : Nat := (p.pieces.map fun q => q.zones.length).sum

/-- The READ-POOL report (R48). -/
def State.poolReport (s : State) : List Byte :=
  enc2 s.ts.free.length ++ enc1 s.ts.setAside ++ enc2 s.ts.available ++ s.ts.tracks.toList.flatMap (fun t => enc2 t.length)
    ++ enc2 s.pt.zoneCount

/-- READ_POOL (R48). -/
def execReadPool (s : State) : Result := .next (s.request .readPool .readPool fun s => .deliver s s.poolReport)

end Sys2Proof.Machine
end

