-- ==== Sys2Proof/Machine/Inspection.lean ====
section
/-! DEFINITION. Gauge links and inspection (04; 10 R210): GAUGE_FRAME_START, REPORT_ARRIVAL, GAUGE_FRAMING_ERROR, GAUGE_FRAME_EXPIRY, REPORT_EVALUATION, COVERAGE_SWEEP, READ_INSPECTION, and the release check of PREVIOUS (R91, R111). -/

namespace Sys2Proof

open Machine

namespace Machine

/-- Update the link of a gauge station in the state. -/
def State.onLink (s : State) (g : Gauge) (f : Link → Link) : State := s.onIu fun u => u.onLink g f

/-- The three gauge stations in order. -/
def gauges : List Gauge := [.g0, .g1, .g2]

/-! ### Frames on a link (R73, R210) -/

/-- GAUGE_FRAME_START: a byte of 0xA5 starts a frame while none is open (R210). -/
def execGaugeFrameStart (g : Gauge) (s : State) : Result := .next (s.onLink g fun l => { l with frameOpen := true })

/-- The open frame of a link ended and answered REFUSED; where none is open nothing comes of it (R73, R210). -/
def State.endFrame (s : State) (g : Gauge) : State :=
  if (s.iu.link g).frameOpen then s.onLink g fun l => { l with frameOpen := false, answer := some .refused } else s

/-- GAUGE_FRAMING_ERROR: a byte with a framing error ends the open frame (R210). -/
def execGaugeFramingError (g : Gauge) (s : State) : Result := .next (s.endFrame g)

/-- GAUGE_FRAME_EXPIRY: a frame open for more than 2 ms is ended as of wrong length (R210). -/
def execGaugeFrameExpiry (g : Gauge) (s : State) : Result := .next (s.endFrame g)

/-- Whether a frame passes the checks of R73: nine bytes, and the CRC-16 of bytes 0 to 6 in bytes 7 and 8 (R208, R210). -/
def framePasses (f : List Byte) : Bool :=
  decide (f.length = 9) && decide (f.drop 7 = enc2 (crc16 (f.take 7)).toNat)

/-- A feature number 0 to 11. -/
def featureOf (n : Nat) : Option (Fin 12) := if h : n < 12 then some ⟨n, h⟩ else none

/-- A flaw class 0 to 7. -/
def classOf (n : Nat) : Option (Fin 8) := if h : n < 8 then some ⟨n, h⟩ else none

/-- What a frame reports on a link, once its kind is accepted there and its fields are in range; the strand is active
(R74, R75 steps 2 and 3). -/
def State.reportOf (s : State) (g : Gauge) (f : List Byte) : Option ReportKind :=
  let b := fun i => (f.getD i 0).toNat
  match b 1, g with
  | 0, .g0 => measure b
  | 0, .g2 => measure b
  | 1, .g1 =>
    match strandOf (b 2), classOf (b 3) with
    | some st, some c =>
      let x := readNat ((f.drop 4).take 3)
      if s.isActive st ∧ 1 ≤ x ∧ x ≤ 100000 then some (.flaw st c x) else none
    | _, _ => none
  | 2, _ => some .blind
  | 3, _ => some .seeing
  | _, _ => none
where
  measure (b : Nat → Nat) : Option ReportKind :=
    match strandOf (b 2), featureOf (b 3) with
    | some st, some k => if s.isActive st then some (.measure st k (readSigned24 ((f.drop 4).take 3))) else none
    | _, _ => none

/-- The strand of a report. -/
def ReportKind.strand? : ReportKind → Option Strand
  | .measure st _ _ => some st
  | .flaw st _ _ => some st
  | .blind => none
  | .seeing => none

/-- The tag of a report on a link at the present L (R77). -/
def State.tag (s : State) (g : Gauge) (k : ReportKind) : Report :=
  { kind := k, coord := s.tagPoint g,
    generation :=
      match k.strand?, s.tagPoint g with
      | some st, some c => (s.heldZone st c).map (·.generation)
      | _, _ => none }

/-- The template of a generation, where it is ACTIVE's or PREVIOUS's (R75, R79). -/
def Tps.ofGeneration (t : Tps) (gen : Option Nat) : Option Template :=
  match gen with
  | none => none
  | some n =>
    match t.active.filter (·.generation == n) with
    | some g => some g.template
    | none => (t.previous.filter (·.generation == n)).map (·.template)

/-- The reference template of an arrival: that of the tagged generation, in every other case ACTIVE's (R75 step 4). -/
def State.referenceAt (s : State) (gen : Option Nat) : Template := (s.tps.ofGeneration gen).getD s.activeTemplate

end Machine

/-- Whether a template gives a feature to a link's station (R75 step 4). -/
def Template.measures (t : Template) (g : Gauge) (k : Fin 12) : Bool :=
  match t.features[k.val]? with
  | some f => f.station.gauge == g
  | none => false

namespace Machine

/-- The answer to a frame that passes its checks, and the entry that joins the queue where it is TAKEN (R75). It
is FULL where 16 are queued, the head under evaluation counted (R78; log 47). -/
def State.judgeReport (s : State) (g : Gauge) (f : List Byte) : GaugeAnswer × Option Report :=
  if s.rc.run.moving = false then (.refused, none)
  else
    match s.reportOf g f with
    | none => (.refused, none)
    | some k =>
      let r := s.tag g k
      let measured := match k with
        | .measure _ i _ => (s.referenceAt r.generation).measures g i
        | .flaw _ _ _ => true
        | .blind => true
        | .seeing => true
      if measured = false then (.refused, none)
      else if Config.reportQueue ≤ (s.iu.link g).queue.length then (.full, none)
      else (.taken, some r)

/-- REPORT_ARRIVAL: a frame completed on a link is an arrival, answered with one byte (R73 to R77). Bytes that do not begin
with 0xA5 are no frame and are discarded with no answer (R210). -/
def execReportArrival (g : Gauge) (frame : List Byte) (s : State) : Result :=
  .next (if frame.headD 0 ≠ 0xA5#8 then s
    else if framePasses frame = false then s.onLink g fun l => { l with frameOpen := false, answer := some .refused }
    else
      let r := s.judgeReport g frame
      s.onLink g fun l => { l with frameOpen := false, answer := some r.1, queue := l.queue ++ r.2.toList })

/-! ### The release of PREVIOUS (R91, R111) -/

/-- Whether a queued report carries a generation. -/
def Iu.holdsGeneration (u : Iu) (n : Nat) : Bool :=
  (u.g0.queue ++ u.g1.queue ++ u.g2.queue).any fun r => r.generation == some n

/-- Whether the release check holds: no late strand, every tag point at or above the commit coordinate, and no queued report
of PREVIOUS's generation (R91, R111). -/
def State.releaseHolds (s : State) : Bool :=
  match s.tps.previous, s.tps.commitCoord with
  | some p, some c =>
    gauges.all (fun g => match s.tagPoint g with | some x => decide (c ≤ x) | none => false)
      && !s.iu.holdsGeneration p.generation && decide (s.tps.late = 0)
  | _, _ => false

/-- The release check, and the release where it holds: PREVIOUS empty, the commit coordinate absent (R111). -/
def State.releaseCheck (s : State) : State :=
  if s.releaseHolds then s.onTps fun t => { t with previous := none, commitCoord := none } else s

/-! ### Trackers (R80 to R84) -/

/-- A sample at a tracker: its coordinate, its deviation, its generation, and whether it is out of tolerance (R80). -/
structure Sample where
  c : Coord
  dev : Int
  generation : Nat
  out : Bool
  deriving DecidableEq, Repr

end Machine

/-- Whether a deviation is out of tolerance for a feature (R80). -/
def Feature.isOut (f : Feature) (dev : Int) : Bool := decide (dev < -(f.lower : Int)) || decide ((f.upper : Int) < dev)

namespace Machine

/-- The tracker of R81 for a sample's generation: it starts afresh where its generation differs. -/
def Tracker.forGeneration (t : Tracker) (n : Nat) : Tracker :=
  if t.generation = some n then t else { Tracker.fresh with generation := some n }

/-- The greater of a worst and a sample, by absolute deviation (R82, R84). -/
def worseOf (w : Option Worst) (x : Sample) : Worst :=
  match w with
  | some y => if y.dev.natAbs < x.dev.natAbs then { dev := x.dev, loc := x.c } else y
  | none => { dev := x.dev, loc := x.c }

/-- A tracker after a sample, with the range and finding of the DIM claim it hands, the upper end included (R82 to R84). -/
structure Tracked where
  tracker : Tracker
  dim : Option (Coord × Coord × Worst)
  deriving DecidableEq, Repr

/-- A sample taken by a tracker that is IN (R82, R83). -/
def Tracker.takeIn (t : Tracker) (n : Nat) (x : Sample) : Tracked :=
  if x.out then
    let first := if t.outRun = 0 then x.c else t.firstOut.getD x.c
    let worst := if t.outRun = 0 then { dev := x.dev, loc := x.c } else worseOf t.worst x
    if n ≤ t.outRun + 1 then
      { tracker := { t with state := .out, outRun := 0, firstOut := none, worst := some worst, dimEnd := some (max first x.c),
                            inRun := 0, firstClose := none },
        dim := some (min first x.c, max first x.c, worst) }
    else { tracker := { t with outRun := t.outRun + 1, firstOut := some first, worst := some worst }, dim := none }
  else { tracker := { t with outRun := 0, firstOut := none, worst := none }, dim := none }

/-- A sample taken by a tracker that is OUT (R84). -/
def Tracker.takeOut (t : Tracker) (m : Nat) (x : Sample) : Tracked :=
  if x.out then
    let e := t.dimEnd.getD x.c
    { tracker := { t with dimEnd := some (max e x.c), inRun := 0, firstClose := none, worst := some (worseOf t.worst x) },
      dim := some (min e x.c, max e x.c, { dev := x.dev, loc := x.c }) }
  else if m ≤ t.inRun + 1 then
    { tracker := { t with state := .within, outRun := 0, firstOut := none, worst := none, dimEnd := none, inRun := 0, firstClose := none },
      dim := none }
  else
    { tracker := { t with inRun := t.inRun + 1, firstClose := if t.inRun = 0 then some x.c else t.firstClose }, dim := none }

/-- A sample taken by a tracker (R81 to R84). -/
def Tracker.take (t : Tracker) (n m : Nat) (x : Sample) : Tracked :=
  let t1 := t.forGeneration x.generation
  match t1.state with
  | .within => t1.takeIn n x
  | .out => t1.takeOut m x

/-- A tracker of the Inspection Unit. -/
def Iu.tracker (u : Iu) (st : Strand) (k : Fin 12) : Tracker := u.trackers[st][k]

/-- Write a tracker. -/
def Iu.setTracker (u : Iu) (st : Strand) (k : Fin 12) (t : Tracker) : Iu :=
  { u with trackers := u.trackers.set st (u.trackers[st].set k t) }

/-! ### Evaluation (R78, R79, R85 to R88) -/

/-- The DIM claim of a sample (R83, R84): its upper end is handed one TU above (section 3.4). -/
def dimClaim (g : Gauge) (st : Strand) (k : Fin 12) (sev : Severity) (d : Coord × Coord × Worst) : Claim :=
  { strand := st, x1 := d.1, x2 := d.2.1 + 1, action := .add .dim, severity := sev,
    finding := some { station := g, item := k.val, dev := d.2.2.dev, loc := d.2.2.loc }, mandatory := false }

/-- The SURF claim of a flaw (R85). -/
def surfClaim (st : Strand) (k : Fin 8) (extent : Nat) (c : Coord) (sev : Severity) : Claim :=
  { strand := st, x1 := c - extent, x2 := c + 1, action := .add .surf, severity := sev,
    finding := some { station := .g1, item := k.val, dev := (extent * 100 : Nat), loc := c }, mandatory := false }

/-- A GAP claim (R88, R89). -/
def gapClaim (st : Strand) (x1 x2 : Coord) : Claim :=
  { strand := st, x1 := x1, x2 := x2, action := .add .gap, severity := .none, finding := none, mandatory := false }

end Machine

/-- Severity of a SURF claim; none is handed for IGNORE (R85). -/
def FlawSeverity.claims : FlawSeverity → Option Severity
  | .ignore => none
  | .review => some .review
  | .scrap => some .scrap

namespace Machine

/-- A coverage mark raised to c (R86). -/
def Link.cover (l : Link) (st : Strand) (c : Coord) : Link := { l with covered := l.covered.set st (max l.covered[st] c) }

/-- The evaluation of a MEASURE that is not orphaned (R80 to R84, R86). -/
def State.evalMeasure (s : State) (g : Gauge) (t : Taking) (tpl : Template) (st : Strand) (k : Fin 12) (value : Int)
    (c gen : Nat) : State :=
  match tpl.features[k.val]? with
  | none => s.onLink g fun l => l.cover st c
  | some f =>
    let dev := value - f.nominal
    let r := (s.iu.tracker st k).take tpl.nOut tpl.mIn { c := c, dev := dev, generation := gen, out := f.isOut dev }
    let s1 := s.onIu fun u => u.setTracker st k r.tracker
    let s2 := s1.handClaims (.link g) t ((r.dim.map (dimClaim g st k f.severity.severity)).toList)
    s2.onLink g fun l => l.cover st c

/-- The evaluation of a FLAW that is not orphaned (R85, R86). -/
def State.evalFlaw (s : State) (g : Gauge) (t : Taking) (tpl : Template) (st : Strand) (k : Fin 8) (extent c : Nat) : State :=
  (s.handClaims (.link g) t ((tpl.flaws[k].claims.map (surfClaim st k extent c)).toList)).onLink g fun l => l.cover st c

/-- The evaluation of a MEASURE or FLAW: ORPHAN, or its evaluation with the reference template (R79). -/
def State.evalSample (s : State) (g : Gauge) (t : Taking) (r : Report) : State :=
  match r.coord, r.generation, s.tps.ofGeneration r.generation with
  | some c, some gen, some tpl =>
    match r.kind with
    | .measure st k v => s.evalMeasure g t tpl st k v c gen
    | .flaw st k x => s.evalFlaw g t tpl st k x c
    | .blind => s
    | .seeing => s
  | _, _, _ => s.raise .orphan

/-- The evaluation of a BLIND (R87). -/
def State.evalBlind (s : State) (g : Gauge) : State :=
  if (s.iu.link g).blind.isSome then s
  else
    (s.onLink g fun l =>
      { l with blind := some (Vector.ofFn fun st => if s.isActive st then some l.covered[st] else none) }).raise .blind

/-- The GAP claims of a SEEING at c (R88 step 1). -/
def State.seeingClaims (s : State) (starts : Vector (Option Coord) 4) (c : Coord) : List Claim :=
  s.activeStrands.filterMap fun st =>
    match starts[st] with
    | some b => if b < c then some (gapClaim st b c) else none
    | none => none

/-- The evaluation of a SEEING (R88). -/
def State.evalSeeing (s : State) (g : Gauge) (t : Taking) (coord : Option Coord) : State :=
  match (s.iu.link g).blind with
  | none => s
  | some starts =>
    match coord with
    | none => s.onLink g fun l => { l with blind := none }
    | some c =>
      (s.handClaims (.link g) t (s.seeingClaims starts c)).onLink g fun l =>
        { s.activeStrands.foldl (fun l st => l.cover st c) l with blind := none }

/-- REPORT_EVALUATION: the head report of a queue is taken out and acted on (R78); claims that the last evaluation of the
queue handed are taken first, and the release check follows (R91). With the queue empty nothing is evaluated (log 3). -/
def execReportEvaluation (g : Gauge) (t : Taking) (s : State) : Result :=
  .next (match (s.iu.link g).queue with
    | [] => s
    | r :: rest =>
      let s1 := (s.takeAllHandedBy (.link g)).onLink g fun l => { l with queue := rest }
      (match r.kind with
        | .measure _ _ _ => s1.evalSample g t r
        | .flaw _ _ _ => s1.evalSample g t r
        | .blind => s1.evalBlind g
        | .seeing => s1.evalSeeing g t r.coord).releaseCheck)

/-! ### The coverage sweep (R89, R90) -/

/-- The sweep point of a station (R89). -/
def State.sweepPoint (s : State) (g : Gauge) : Option Coord :=
  match s.tagPoint g with
  | none => none
  | some p =>
    match s.rc.run, s.rc.tail with
    | .draining, some t => some (min p t)
    | _, _ => some p

/-- Whether a station is swept for GAP: a dimensional one only where ACTIVE assigns it a feature (R90). -/
def State.sweeps (s : State) (g : Gauge) : Bool :=
  match g with
  | .g1 => true
  | .g0 => s.activeTemplate.features.any fun f => f.station.gauge == .g0
  | .g2 => s.activeTemplate.features.any fun f => f.station.gauge == .g2

/-- Whether a strand's mark lies more than the gap limit below p. -/
def State.gapDue (s : State) (g : Gauge) (p : Coord) (st : Strand) : Bool :=
  decide ((s.iu.link g).covered[st] + s.cfg.gapLimit < p)

/-- The GAP claims of the sweep at one station (R89). -/
def State.sweepClaims (s : State) (g : Gauge) : List Claim :=
  match (s.iu.link g).blind, s.sweepPoint g with
  | none, some p =>
    if s.sweeps g then
      (s.activeStrands.filter (s.gapDue g p)).map fun st => gapClaim st ((s.iu.link g).covered[st] + 1) p
    else []
  | _, _ => []

/-- The marks after the sweep at one station (R89, R90). -/
def State.sweepMarks (s : State) (g : Gauge) : State :=
  match (s.iu.link g).blind, s.sweepPoint g with
  | none, some p =>
    s.onLink g fun l =>
      (s.activeStrands.filter fun st => !s.sweeps g || s.gapDue g p st).foldl (fun l st => l.cover st p) l
  | _, _ => s

/-- The coverage sweep: its claims in order of station and strand (R89). DESIGN CHOICE (log 59): claims of an earlier sweep that still wait
are left waiting, so those of this one may be taken before them. -/
def State.sweep (s : State) (t : Taking) : State :=
  (gauges.foldl State.sweepMarks s).handClaims .sweep t (gauges.flatMap s.sweepClaims)

/-- COVERAGE_SWEEP: the Inspection Unit takes the travel event that waits for it: the sweep where metal moves, and the
release check (R14, R89, R91); where none waits nothing comes of it (log 3). -/
def execCoverageSweep (t : Taking) (s : State) : Result :=
  .next (if s.travel.iu.isSome then
      let s1 := s.onTravel fun x => { x with iu := none }
      (if s1.rc.run.moving then s1.sweep t else s1).releaseCheck
    else s)

/-! ### READ-INSPECTION (R94) -/

/-- An optional worst: deviation and coordinate. -/
def encWorst (o : Option Worst) : List Byte := encOpt 8 (fun w => encSigned w.dev ++ encTU (w.loc : Int)) o

/-- A tracker as READ-INSPECTION carries it (R94). -/
def Tracker.report (t : Tracker) : List Byte :=
  enc1 t.state.code ++ encOpt 1 enc1 t.generation ++ enc1 t.outRun ++ encOptTU t.firstOut ++ encWorst t.worst
    ++ encOptTU t.dimEnd ++ enc1 t.inRun ++ encOptTU t.firstClose

/-- The queue length and BLIND state of a station for a strand (R94). -/
def State.linkReport (s : State) (st : Strand) (g : Gauge) : List Byte :=
  let l := s.iu.link g
  enc1 l.queue.length ++ encFlag l.blind.isSome
    ++ encOptTU (match l.blind with | some b => if s.isActive st then b[st] else none | none => none)

/-- The number of queued reports that carry a generation. -/
def Iu.countGeneration (u : Iu) (n : Nat) : Nat :=
  ((u.g0.queue ++ u.g1.queue ++ u.g2.queue).filter fun r => r.generation == some n).length

/-- The READ-INSPECTION report of a strand (R94). -/
def State.inspectionReport (s : State) (st : Strand) : List Byte :=
  gauges.flatMap (s.linkReport st)
    ++ gauges.flatMap (fun g => encOptTU (if s.isActive st then some (s.iu.link g).covered[st] else none))
    ++ s.iu.trackers[st].toList.flatMap Tracker.report
    ++ encOpt 1 enc1 (s.tps.previous.map fun p => s.iu.countGeneration p.generation)

/-- READ_INSPECTION (R94). -/
def execReadInspection (strand : Nat) (s : State) : Result :=
  .next (s.request (.readInspection strand) .readInspection fun s =>
    match strandOf strand with
    | some st => .deliver s (s.inspectionReport st)
    | none => .refuse s .range)

end Machine

end Sys2Proof
end

