-- ==== Sys2Proof/Machine/Lookup.lean ====
section
/-! DEFINITION. Looking up and changing records (09): FIND_ZONE, READ_ZONES, WALK_ZONES, HOLD_SPAN, RELEASE_HOLD, OVERRIDE, HOLD_SPANS, HOLD_SPANS_SPAN_APPLY, and the claims of other blocks (03): CONDITION_CLAIM, BOUNDARY. -/

namespace Sys2Proof.Machine

open Sys2Proof

/-! ### Claims from other blocks (R56 to R66) -/

/-- CONDITION_CLAIM: the Track Store takes one claim whole (R59 to R66): one that arrives, or the oldest that a sender has
handed; where that sender has handed none, nothing comes of it (log 4). -/
def execConditionClaim (src : ClaimSource) (s : State) : Result :=
  .next (match src with
    | .arriving c => s.takeClaim c
    | .handed b => s.takeHanded b)

/-- BOUNDARY (R56 to R58, R110): the fields of the new zone are the sender's. -/
def execBoundary (strand : Strand) (b : Coord) (conds : CondSet) (billet generation : Nat) (commit : Bool) (s : State) : Result :=
  .next (s.boundary strand b { conds := conds, billet := billet, generation := generation } commit)

/-! ### Finding and walking (R183 to R190) -/

/-- A block of zone records: the L of its assembly, the record count, the records (section 10.6). -/
def State.zoneBlock (s : State) (rs : List (List Byte)) : List Byte := encTU (s.L : Int) ++ enc1 rs.length ++ rs.flatten

/-- A zone's record looked up at x (R184). -/
def Zone.recordAt (z : Zone) (x : Coord) : List Byte := encZone z (max z.start x)

/-- FIND_ZONE (R183, R184). -/
def execFindZone (strand : Nat) (addr : Address) (s : State) : Result :=
  .next (s.request (.findZone strand addr) .findZone fun s =>
    match strandOf strand with
    | none => .refuse s .range
    | some st =>
      match s.resolve addr with
      | .error e => .refuse s e
      | .ok x =>
        if s.isActive st = false then .refuse s .notFound
        else
          match s.heldZone st x with
          | some z => .deliver s (s.zoneBlock [z.recordAt x])
          | none => .refuseAt s .notFound (.coordinate x))

/-- READ_ZONES (R185): its blocks are assembled at each FETCH. -/
def execReadZones (strand : Nat) (addr : Address) (count block : Nat) (s : State) : Result :=
  .next (s.request (.readZones strand addr count block) .readZones fun s =>
    match strandOf strand with
    | none => .refuse s .range
    | some st =>
      if count < 1 ∨ 1024 < count ∨ block < 1 ∨ 16 < block then .refuse s .range
      else
        match s.resolve addr with
        | .error e => .refuse s e
        | .ok x =>
          if s.isActive st = false then .refuse s .notFound
          else if (s.heldZone st x).isNone then .refuseAt s .notFound (.coordinate x)
          else .goesOn s (.dataOut (.zones { strand := st, count := count, block := block, q := x, delivered := 0 })))

/-- Whether a walk that stands at q has reached an end of R187, and the error it ends with: COUNT, the end of the metal, or a
hole (log 25). -/
def State.walkEnds (s : State) (st : Strand) (count q delivered : Nat) : Option ErrCode :=
  if count ≤ delivered then some .none
  else
    match s.walkZone st q with
    | some _ => none
    | none => if q < s.heldEnd st then some .notFound else some .none

/-- A block of READ-ZONES as assembled: its records, where the walk then stands, and the error it ends with where it is
marked last (R186, R187). -/
structure Assembly where
  records : List (List Byte)
  q : Coord
  delivered : Nat
  ends : Option ErrCode
  deriving DecidableEq, Repr

/-- The assembly of a block of at most n records (R186). -/
def State.assemble (s : State) (st : Strand) (count : Nat) : Nat → Coord → Nat → Assembly
  | 0, q, d => { records := [], q := q, delivered := d, ends := s.walkEnds st count q d }
  | n + 1, q, d =>
    match s.walkEnds st count q d, s.walkZone st q with
    | none, some z =>
      match z.stop? with
      | none => { records := [z.recordAt q], q := q, delivered := d + 1, ends := some .none }
      | some e =>
        let r := s.assemble st count n e (d + 1)
        { r with records := z.recordAt q :: r.records }
    | e, _ => { records := [], q := q, delivered := d, ends := some (e.getD .none) }

/-- The continuation that WALK-ZONES delivers with a zone (R189). -/
def State.continuation (s : State) (st : Strand) (z : Zone) : Option Coord :=
  match z.stop? with
  | none => none
  | some e =>
    if (s.rc.run = .draining ∧ s.rc.tail = some e) ∨ ((s.track st).isEmpty = true ∧ e = s.heldEnd st) then none else some e

/-- Where WALK-ZONES starts, with the error of a walk that finds no zone there (R189, R190). -/
def State.walkStart (s : State) : WalkStart → Except ErrCode (Coord × ErrCode)
  | .address a =>
    match s.resolve a with
    | .error e => .error e
    | .ok x => .ok (x, .notFound)
  | .continue_ q => if q ≤ Config.coordMax then .ok (q, .stale) else .error .range
  | .unknown _ => .error .range

/-- WALK_ZONES (R189, R190). The open zone counts as reaching without limit for both start kinds (R189, log 55). -/
def execWalkZones (strand : Nat) (start : WalkStart) (s : State) : Result :=
  .next (s.request (.walkZones strand start) .walkZones fun s =>
    match strandOf strand with
    | none => .refuse s .range
    | some st =>
      match s.walkStart start with
      | .error e => .refuse s e
      | .ok (q, lost) =>
        if s.isActive st = false then .refuse s .notFound
        else
          match s.walkZone st q with
          | some z => .deliver s (s.zoneBlock [z.recordAt q] ++ encOptTU (s.continuation st z))
          | none => .refuseAt s lost (.coordinate q))

/-! ### Holding (R35, R67, R191) -/

/-- What a hold did to the HELD future entry, as the reply carries it (R191): made 0, extended 1, not handed 2. A hold that ends
at or below the end of the live entry was handed, and is answered extended, though the entry stays as it was (log 43). -/
inductive HoldEffect | made | extended | notHanded
  deriving DecidableEq, Repr

/-- Code of a hold's effect. -/
def HoldEffect.code : HoldEffect → Nat | .made => 0 | .extended => 1 | .notHanded => 2

/-- Write the HELD entry of a strand; the planner takes a change of it (R126). An entry left as it was is no change
(log 43). -/
def State.setHeldEntry (s : State) (st : Strand) (o : Option Coord) : State :=
  if o = s.rc.future[st].held then s
  else (s.onRc fun c => { c with future := c.future.set st { c.future[st] with held := o } }).replan

/-- Whether a span reaches above U of a track that ends in an open zone (R35, R191). -/
def State.reachesAhead (s : State) (st : Strand) (x2 : Coord) : Bool := s.endsOpen st && decide (s.boundaryCoord st < x2)

/-- What a hold does to the HELD entry (R33, R35). -/
def State.holdEffect (s : State) (st : Strand) (x2 : Coord) : HoldEffect :=
  if s.reachesAhead st x2 then (if s.rc.future[st].held.isSome then .extended else .made) else .notHanded

/-- The HELD entry of a hold made or extended, with the boundary of one that is made (R33, R35). -/
def State.holdAhead (s : State) (st : Strand) (x2 : Coord) : HoldEffect → State
  | .made => (s.setHeldEntry st (some x2)).boundaryHere st false
  | .extended => s.setHeldEntry st (raiseEnd s.rc.future[st].held x2)
  | .notHanded => s

/-- The HELD claim of a hold (R67). -/
def holdClaim (st : Strand) (x1 x2 : Coord) : Claim :=
  { strand := st, x1 := x1, x2 := x2, action := .add .held, severity := .none, finding := none, mandatory := false }

/-- A hold's two parts, in either order (R67). DESIGN CHOICE (log 62): both are taken within one event, with no claim of another block
between them. -/
def State.hold (s : State) (order : SpanOrder) (st : Strand) (x1 x2 : Coord) : State :=
  let e := s.holdEffect st x2
  match order with
  | .claimFirst => (s.takeClaim (holdClaim st x1 x2)).holdAhead st x2 e
  | .entryFirst => (s.holdAhead st x2 e).takeClaim (holdClaim st x1 x2)

/-- HOLD_SPAN (R191). -/
def execHoldSpan (strand : Nat) (first second : Address) (order : SpanOrder) (s : State) : Result :=
  .next (s.request (.holdSpan strand first second order) .holdSpan fun s =>
    match s.checkSpan { strand := strand, first := first, second := second } with
    | .error e => .refuse s e
    | .ok (st, x1, x2) =>
      .ok (s.hold order st x1 x2) (encTU (x1 : Int) ++ encTU (x2 : Int) ++ enc1 (s.holdEffect st x2).code))

/-! ### Releasing (R35, R68, R192) -/

/-- What a release does to the HELD future entry, by the table of R35. -/
inductive ReleaseEffect
  | none
  | removed
  | shortened
  | refused
  deriving DecidableEq, Repr

/-- Code of a release's effect: none 0, removed 1, shortened 2. -/
def ReleaseEffect.code : ReleaseEffect → Nat | .none => 0 | .removed => 1 | .shortened => 2 | .refused => 0

/-- The table of R35. -/
def State.releaseEffect (s : State) (st : Strand) (x1 x2 : Coord) : ReleaseEffect :=
  if s.reachesAhead st x2 then
    match s.rc.future[st].held with
    | .none => .none
    | some h =>
      if x2 < h then .refused
      else if x1 ≤ s.boundaryCoord st then .removed
      else if x1 < h then .shortened else .none
  else .none

/-- The effect of a release on the HELD entry applied (R35). -/
def State.releaseAhead (s : State) (st : Strand) (x1 : Coord) : ReleaseEffect → State
  | .removed => (s.setHeldEntry st Option.none).boundaryHere st false
  | .shortened => s.setHeldEntry st (some x1)
  | .none => s
  | .refused => s

/-- The removal claim of a release (R68). -/
def releaseClaim (st : Strand) (x1 x2 : Coord) : Claim :=
  { strand := st, x1 := x1, x2 := x2, action := .removeHeld, severity := .none, finding := none, mandatory := false }

/-- A release's two parts, in either order (R67, R192). DESIGN CHOICE (log 62): both are taken within one event, with no claim of another
block between them. -/
def State.release (s : State) (order : SpanOrder) (st : Strand) (x1 x2 : Coord) : State :=
  let e := s.releaseEffect st x1 x2
  match order with
  | .claimFirst => (s.takeClaim (releaseClaim st x1 x2)).releaseAhead st x1 e
  | .entryFirst => (s.releaseAhead st x1 e).takeClaim (releaseClaim st x1 x2)

/-- RELEASE_HOLD (R35, R192). -/
def execReleaseHold (strand : Nat) (first second : Address) (order : SpanOrder) (s : State) : Result :=
  .next (s.request (.releaseHold strand first second order) .releaseHold fun s =>
    match s.checkSpan { strand := strand, first := first, second := second } with
    | .error e => .refuse s e
    | .ok (st, x1, x2) =>
      if s.releaseEffect st x1 x2 = .refused then .refuseAt s .range (.coordinate x2)
      else .ok (s.release order st x1 x2) (encTU (x1 : Int) ++ encTU (x2 : Int) ++ enc1 (s.releaseEffect st x1 x2).code))

/-! ### OVERRIDE (R69, R193) -/

/-- The override that a value names: ACCEPT, REVIEW, SCRAP, or CLEAR, which makes it absent (R193). -/
def overrideOf : Nat → Option (Option Disp)
  | 0 => some (some .accept)
  | 1 => some (some .review)
  | 2 => some (some .scrap)
  | 3 => some none
  | _ => none

/-- The zone that holds an overridden zone's start once the merges have been made (R69). -/
def State.zoneAfter (s : State) (z : Zone) : Zone :=
  match s.zoneByKey z.key with
  | some y => y
  | none => (s.walkZone z.strand z.start).getD z

/-- OVERRIDE (R69, R193). -/
def execOverrideZone (key : Key) (value : Nat) (s : State) : Result :=
  .next (s.request (.overrideZone key value) .override fun s =>
    match overrideOf value with
    | none => .refuse s .range
    | some v =>
      if Config.zoneSlots ≤ key.slot then .refuse s .range
      else
        match s.zoneByKey key with
        | none => .refuseAt s .stale (.key key)
        | some z =>
          let s1 := s.applyOverride z v
          .ok s1 (encKey (s1.zoneAfter z).key ++ enc1 (s1.zoneAfter z).disposition.code))

/-! ### HOLD-SPANS (R194, R195) -/

/-- HOLD_SPANS (R194): its blocks are put by PUT. -/
def execHoldSpans (count block : Nat) (s : State) : Result :=
  .next (s.request (.holdSpans count block) .holdSpans fun s =>
    if s.rc.run = .idle then .refuse s .aborted
    else if count < 1 ∨ 1024 < count ∨ block < 1 ∨ 16 < block then .refuse s .range
    else .goesOn s (.dataIn { count := count, block := block, next := 0, waiting := [] }))

/-- A span that passed is counted, and the request ends after the last (R195). -/
def State.countSpan (s : State) (p : SpanPut) (rest : List Span) : State :=
  if p.next + 1 = p.count then s.endLater .holdSpans .none (enc2 p.count) .none 0
  else s.onLp fun q => { q with port := .dataIn { p with next := p.next + 1, waiting := rest } }

/-- The next span of a put block checked and applied; one that fails ends the request (R195). Where no span waits nothing
comes of it (log 51). -/
def State.applyNextSpan (s : State) (order : SpanOrder) : State :=
  match s.lp.port with
  | .dataIn p =>
    match p.waiting with
    | [] => s
    | sp :: rest =>
      match s.checkSpan sp with
      | .error e => s.endLater .holdSpans e [] (.span p.next) p.next
      | .ok (st, x1, x2) => (s.hold order st x1 x2).countSpan p rest
  | .ready => s
  | .busy _ => s
  | .dataOut _ => s

/-- HOLD_SPANS_SPAN_APPLY (R195). -/
def execHoldSpansSpanApply (order : SpanOrder) (s : State) : Result := .next (s.applyNextSpan order)

/-- Every span of the put block applied in turn (R195; log 24): `n` is how many wait. -/
def State.applySpans : Nat → State → State
  | 0, s => s
  | n + 1, s => State.applySpans n (s.applyNextSpan .claimFirst)

/-- The number of spans that wait. -/
def PortState.waiting : PortState → Nat
  | .dataIn p => p.waiting.length
  | .ready => 0
  | .busy _ => 0
  | .dataOut _ => 0

/-- The spans of a put block applied before a message that comes after them is handed on (log 24). -/
def State.finishSpans (s : State) : State := State.applySpans s.lp.port.waiting s

end Sys2Proof.Machine
end

