-- ==== Sys2Proof/Machine/Marking.lean ====
section
/-! DEFINITION. Marker test and the reading of the windows (08): MARK_TEST, READ_MARKERS, WINDOW_REFILL. -/

namespace Sys2Proof.Machine

open Sys2Proof

/-! ### WINDOW_REFILL (R166, R171) -/

/-- The die-run states in which a travel event is an event at the Station Windows (R166). -/
def RunState.filling : RunState → Bool
  | .idle => false
  | .armed => true
  | .running => true
  | .dead => true
  | .draining => true

/-- WINDOW_REFILL: the Station Windows take the travel event that waits for them: fill or keep, then each line is judged
(R14, R166, R171); where none waits nothing comes of it (log 3). -/
def execWindowRefill (s : State) : Result :=
  .next (if s.travel.swm.isSome then
      let s1 := s.onTravel fun t => { t with swm := none }
      if s1.rc.run.filling then s1.activeStrands.foldl State.travelWindow s1 else s1
    else s)

/-! ### MARK-TEST (R176, R177) -/

/-- The line of MARK-TEST's strand after it (R176, R177): isolated at the level given, or its isolation ended, OFF. -/
def MarkLine.test (isolate level : Bool) : MarkLine :=
  if isolate then { on := level, onPoint := none, isolated := true } else MarkLine.off

/-- The levels of the four lines and which are isolated, as MARK-TEST answers (R176): four level bytes, then four flags
(log 49). -/
def Swm.testReply (m : Swm) : List Byte :=
  m.lines.toList.flatMap (fun l => enc1 (onOffCode l.on)) ++ m.lines.toList.flatMap (fun l => encFlag l.isolated)

/-- An accepted MARK-TEST; at the end of isolation the line is judged as any other (R177). -/
def State.markTest (s : State) (st : Strand) (isolate level : Bool) : State :=
  (s.setLine st (MarkLine.test isolate level)).judgeLine st

/-- MARK_TEST (R176, R177). An isolate byte with no meaning is refused with RANGE, as the other fields are (R209). -/
def execMarkTest (strand : Nat) (isolate : Nat) (level : Nat) (s : State) : Result :=
  .next (s.request (.markTest strand isolate level) .markTest fun s =>
    if s.rc.run ≠ .idle then .refuse s .aborted
    else
      match strandOf strand, flagOf isolate, onOffOf level with
      | some st, some i, some l => .ok (s.markTest st i l) (s.markTest st i l).swm.testReply
      | _, _, _ => .refuse s .range)

/-! ### READ-MARKERS (R178) -/

/-- Status code of a window: VALID, LAPSED, EMPTY. -/
def Window.code : Window → Nat
  | .valid _ _ => 0
  | .lapsed => 1
  | .empty => 2

/-- The zone copy of a window, carried in the zone record layout, with the start as its field from (R178, log 13). -/
def encCopy (z : Zone) : List Byte := encZone z z.start

/-- The second record of a window, each item absent where absent (R178). -/
def encNext (n : Option NextZone) : List Byte :=
  encOptTU (n.map (·.start)) ++ encOpt 4 encKey (n.map (·.key)) ++ encOpt 1 encFlag (n.map (·.marked))

/-- The zone copy and second record of a window, absent unless VALID. -/
def encWindow : Window → List Byte
  | .valid z n => enc1 0 ++ encOpt 72 encCopy (some z) ++ encNext n
  | .lapsed => enc1 1 ++ encOpt 72 encCopy none ++ encNext none
  | .empty => enc1 2 ++ encOpt 72 encCopy none ++ encNext none

/-- Length of the group of one strand in READ-MARKERS. -/
def markerGroup : Nat := 99

/-- The group of one strand; an inactive strand's is 0 (R178, R209; log 13). -/
def State.markersStrand (s : State) (st : Strand) : List Byte :=
  let l := s.swm.lines[st]
  if s.isActive st then
    encWindow s.swm.windows[st] ++ encOptTU s.markerPoint ++ enc1 (onOffCode l.on) ++ encOptTU l.onPoint
      ++ encFlag l.isolated ++ encFlag (hasStrand s.cfg.markerEnables st)
  else zeros markerGroup

/-- The READ-MARKERS report (R178). -/
def State.markersReport (s : State) : List Byte :=
  strands.flatMap s.markersStrand ++ encOpt 1 (fun (g : Governing) => enc1 g.template.markSet.toNat) s.tps.active
    ++ encTU (s.cfg.minMark : Int) ++ encTU (s.cfg.minGap : Int) ++ enc1 s.cfg.idlePolicy.code

/-- READ_MARKERS (R178). -/
def execReadMarkers (s : State) : Result := .next (s.request .readMarkers .readMarkers fun s => .deliver s s.markersReport)

end Sys2Proof.Machine
end

