-- ==== Sys2Proof/Machine/Pieces.lean ====
section
/-! DEFINITION. Pieces and discharge (07): RETIRE_PIECE, REMOVE_CUT_SET, READ_PIECE_BY_KEY, READ_PIECE_BY_COORDINATE, LIST_ARRIVED, READ_TRANSIT, END_EYE. -/

namespace Sys2Proof.Machine

open Sys2Proof

/-! ### END-EYE (R153) -/

/-- Every piece of a cut set becomes ARRIVED (R153). -/
def arriveSet (n : Nat) (ps : List Piece) : List Piece :=
  ps.map fun p => if p.cutNumber = n then { p with state := .arrived } else p

/-- END_EYE (R152, R153): the oldest set in transit arrives; or the head mark is set; or the edge is stray. -/
def execEndEye (s : State) : Result :=
  .next (match s.pt.queue with
    | n :: rest => (s.onPt fun p => { p with queue := rest, pieces := arriveSet n p.pieces }).raise .arrived
    | [] =>
      if s.rc.run.moving = true ∧ s.activeStrands.any (fun st => !(s.track st).isEmpty) = true ∧ s.pt.headMark = false then
        s.onPt fun p => { p with headMark := true }
      else s.raise .stray)

/-! ### Retiring and removing (R156 to R158) -/

/-- RETIRE_PIECE (R156, R157). -/
def execRetirePiece (key : Key) (order : FreeOrder) (s : State) : Result :=
  .next (s.request (.retirePiece key order) .retirePiece fun s =>
    if Config.pieceSlots ≤ key.slot then .refuse s .range
    else
      match s.pieceByKey key with
      | none => .refuse s .stale
      | some p =>
        if p.state = .transit then .refuse s .aborted
        else .ok ((s.freePiece p).afterFree order)
          (encKey p.key ++ enc2 p.cutNumber ++ enc1 p.strand.val ++ enc1 p.verdict.code ++ enc1 p.flagByte))

/-- The pieces of a cut set. -/
def Pt.ofSet (p : Pt) (n : Nat) : List Piece := p.pieces.filter fun q => q.cutNumber == n

/-- REMOVE_CUT_SET (R157, R158). -/
def execRemoveCutSet (number : Nat) (order : FreeOrder) (s : State) : Result :=
  .next (s.request (.removeCutSet number order) .removeCutSet fun s =>
    if number < 1 ∨ 65535 < number then .refuseAt s .range (.cut number)
    else if s.pt.queue.contains number = false then .refuseAt s .notFound (.cut number)
    else
      let set := s.pt.ofSet number
      let s1 := s.onPt fun p => { p with queue := p.queue.erase number }
      .ok ((set.foldl State.freePiece s1).afterFree order) (enc2 number ++ enc1 set.length))

/-! ### Reading pieces (R160 to R163) -/

/-- READ_PIECE_BY_KEY (R160). -/
def execReadPieceByKey (key : Key) (s : State) : Result :=
  .next (s.request (.readPieceByKey key) .readPiece fun s =>
    if Config.pieceSlots ≤ key.slot then .refuse s .range
    else
      match s.pieceByKey key with
      | none => .refuse s .stale
      | some p => .deliver s (encPiece p))

/-- READ_PIECE_BY_COORDINATE (R161). -/
def execReadPieceByCoordinate (strand : Nat) (addr : Address) (s : State) : Result :=
  .next (s.request (.readPieceByCoordinate strand addr) .readPiece fun s =>
    match strandOf strand with
    | none => .refuse s .range
    | some st =>
      match s.resolve addr with
      | .error e => .refuse s e
      | .ok x =>
        match s.pieceAt st x with
        | none => .refuse s .notFound
        | some p => .deliver s (encPiece p))

/-- LIST_ARRIVED: its blocks are assembled at each FETCH (R162, R200). -/
def execListArrived (s : State) : Result :=
  .next (s.request .listArrived .listArrived fun s => .goesOn s (.dataOut (.arrived none 0)))

/-- Whether a piece comes before another in the order of LIST-ARRIVED: by cut number, then by strand (R162). -/
def Piece.before (p q : Piece) : Bool :=
  decide (p.cutNumber < q.cutNumber) || (p.cutNumber == q.cutNumber && decide (p.strand.val < q.strand.val))

/-- Insert a piece in that order. -/
def insertPiece (p : Piece) : List Piece → List Piece
  | [] => [p]
  | q :: qs => if q.before p then q :: insertPiece p qs else p :: q :: qs

/-- The ARRIVED pieces in the order of LIST-ARRIVED (R162). -/
def Pt.arrived (p : Pt) : List Piece := (p.pieces.filter fun q => q.state == .arrived).foldr insertPiece []

/-- Whether a piece follows the last one delivered (R162). -/
def Piece.follows (p : Piece) : Option (Nat × Nat) → Bool
  | none => true
  | some (n, st) => decide (n < p.cutNumber) || (n == p.cutNumber && decide (st < p.strand.val))

/-- The pieces that the next block of LIST-ARRIVED takes (R162). -/
def Pt.arrivedBlock (p : Pt) (last : Option (Nat × Nat)) : List Piece :=
  (p.arrived.filter fun q => q.follows last).take Config.arrivedBlock

/-- One cut number of the transit queue: head, tail and number of pieces of its set, and the verdict of each strand's piece,
0 where the strand has none (R163, R209; log 12). -/
def State.encTransit (s : State) (n : Nat) : List Byte :=
  let set := s.pt.ofSet n
  let ends := match set with | p :: _ => encTU (p.head : Int) ++ encTU (p.tail : Int) | [] => zeros 8
  enc2 n ++ ends ++ enc1 set.length
    ++ strands.flatMap fun st => enc1 (match set.find? (fun p => p.strand == st) with | some p => p.verdict.code | none => 0)

/-- The READ-TRANSIT report (R163). -/
def State.transitReport (s : State) : List Byte :=
  let count := fun (f : Piece → Bool) => enc1 (s.pt.pieces.filter f).length
  enc1 s.pt.queue.length ++ s.pt.queue.flatMap s.encTransit ++ encFlag s.pt.headMark ++ enc1 s.pt.free.length
    ++ enc1 s.pt.setAside ++ enc1 s.pt.available ++ count (fun p => p.state == .transit) ++ count (fun p => p.state == .arrived)
    ++ count (fun p => p.state == .arrived && p.amended)

/-- READ_TRANSIT (R163). -/
def execReadTransit (s : State) : Result := .next (s.request .readTransit .readTransit fun s => .deliver s s.transitReport)

end Sys2Proof.Machine
end

