-- ==== Sys2Proof/Machine/Templates.lean ====
section
/-! DEFINITION. Die templates and their protection (05): EDIT_TEMPLATE, LOAD_TEMPLATE, STORE_TEMPLATE, READ_TEMPLATE and their completions, READ_LIBRARY, COMMIT_TEMPLATE, UNLOCK, SET_CODE and its completion, LOCK, FREEZE_CODES, READ_PROTECTION. -/

namespace Sys2Proof.Machine

open Sys2Proof

/-- The request that a timed operation belongs to. -/
def TimedOp.name : TimedOp → ReqName
  | .store _ => .storeTemplate
  | .load _ => .loadTemplate
  | .readSlot _ => .readTemplate
  | .codeWrite _ => .setCode

/-- The slot a template is asked for, as a slot of the library. -/
def Tps.setSlot (t : Tps) (i : Fin 16) (o : Option Template) : Tps := { t with library := t.library.set i o }

/-! ### EDIT-TEMPLATE (R99, R100) -/

/-- What an edit works on: PENDING, or the default template while it is empty (R99). -/
def Tps.editBase (t : Tps) : Template := t.work.getD Template.defaults

/-- EDIT_TEMPLATE (R97, R99, R100). The failing item carries field and index as sent, for a field without an index too (log 56). -/
def execEditTemplate (field index : Nat) (value : Int) (s : State) : Result :=
  .next (s.request (.editTemplate field index value) .editTemplate fun s =>
    if s.tps.protection = .locked then .refuse s .locked
    else if editTakes s.tps.editBase field index value = false then .refuseAt s .range (.field field index)
    else
      let t := (writeField s.tps.editBase field index value).sealed
      .ok (s.onTps fun x => { x with work := some t }) (enc2 t.check.toNat ++ encFlag t.inOrder))

/-! ### LOAD-TEMPLATE (R106) -/

/-- LOAD_TEMPLATE (R106). -/
def execLoadTemplate (slot : Nat) (s : State) : Result :=
  .next (s.request (.loadTemplate slot) .loadTemplate fun s =>
    match slotOf slot with
    | none => .refuse s .range
    | some i => if s.tps.library[i].isNone then .refuse s .check else .goesOn s (.busy (.load i)))

/-- What a slot reads back as, where its check word matches (R97; what the storage gives, log 7). -/
def Tps.readBack (t : Tps) (i : Fin 16) (rb : ReadBack) : Option Template :=
  (match rb with | some x => some x | none => t.library[i]).filter fun x => x.check == x.computed

/-- LOAD_COMPLETION (R106); without a load in progress nothing comes of it (log 7). -/
def execLoadCompletion (rb : ReadBack) (s : State) : Result :=
  .next (match s.lp.port with
    | .busy (.load i) =>
      match s.tps.readBack i rb with
      | some t =>
        (s.onTps fun x => { x with work := some t }).endLater .loadTemplate .none (enc2 t.dieNumber ++ enc2 t.check.toNat) .none 0
      | none => (s.onTps fun x => x.setSlot i none).endLater .loadTemplate .check [] (.slot i.val) 0
    | _ => s)

/-! ### STORE-TEMPLATE (R103, R104) -/

/-- STORE_TEMPLATE (R98, R102, R103): the slot becomes INVALID at once. -/
def execStoreTemplate (slot : Nat) (s : State) : Result :=
  .next (s.request (.storeTemplate slot) .storeTemplate fun s =>
    if s.tps.protection = .locked then .refuse s .locked
    else
      match slotOf slot with
      | none => .refuse s .range
      | some i =>
        if s.tps.deviceFault then .refuse s .deviceFault
        else
          match s.tps.work with
          | none => .refuse s .check
          | some p =>
            if p.inOrder then .goesOn (s.onTps fun x => x.setSlot i none) (.busy (.store i))
            else .refuseAt s .check (.field p.badField 0))

/-- Whether what a store wrote verifies: it reads back as PENDING, its check word matching (R104). -/
def Tps.verifies (t : Tps) (rb : ReadBack) : Bool :=
  match t.work with
  | some p => (rb.getD p) == p && p.check == p.computed
  | none => false

/-- STORE_COMPLETION (R104); without a store in progress nothing comes of it (log 7). The slot number of its reply takes one byte (log 12). -/
def execStoreCompletion (rb : ReadBack) (s : State) : Result :=
  .next (match s.lp.port with
    | .busy (.store i) =>
      if s.tps.verifies rb then
        (s.onTps fun x => x.setSlot i x.work).endLater .storeTemplate .none
          (enc1 i.val ++ enc2 (match s.tps.work with | some p => p.check.toNat | none => 0)) .none 0
      else (s.onTps fun x => { x with deviceFault := true }).endLater .storeTemplate .deviceFault [] (.slot i.val) 0
    | _ => s)

/-! ### READ-TEMPLATE (R112) and READ-LIBRARY (R113) -/

/-- Whether any strand is late (R110, R112). -/
def Tps.anyLate (t : Tps) : Bool := decide (t.late ≠ 0)

/-- The snapshot of a template, or NOT-FOUND where it is empty (R112). -/
def Course.templateOr (s : State) (o : Option (List Byte)) : Course :=
  match o with
  | some b => .deliver s b
  | none => .refuse s .notFound

/-- READ_TEMPLATE (R112). -/
def execReadTemplate (target : Nat) (s : State) : Result :=
  .next (s.request (.readTemplate target) .readTemplate fun s =>
    match slotOf target, target with
    | some i, _ => if s.tps.library[i].isNone then .refuse s .check else .goesOn s (.busy (.readSlot i))
    | none, 16 => .templateOr s (s.tps.work.map fun p => encTemplate p ++ encFlag p.inOrder)
    | none, 17 => .templateOr s (s.tps.active.map fun g => encTemplate g.template ++ enc1 g.generation)
    | none, 18 =>
      .templateOr s (s.tps.previous.map fun g =>
        encTemplate g.template ++ enc1 g.generation ++ encTU ((s.tps.commitCoord.getD 0 : Nat) : Int) ++ encFlag s.tps.anyLate)
    | none, _ => .refuse s .range)

/-- LIBRARY_READ_COMPLETION (R112); without a read of a slot in progress nothing comes of it (log 7). -/
def execLibraryReadCompletion (rb : ReadBack) (s : State) : Result :=
  .next (match s.lp.port with
    | .busy (.readSlot i) =>
      match s.tps.readBack i rb with
      | some t => s.onLp fun p => { p with port := .dataOut (.snapshot .readTemplate), buffer := encTemplate t }
      | none => (s.onTps fun x => x.setSlot i none).endLater .readTemplate .check [] .none 0
    | _ => s)

/-- One slot of READ-LIBRARY: VALID 0 or INVALID 1, then die number and check word, absent while INVALID (R113). -/
def encSlot (o : Option Template) : List Byte :=
  enc1 (if o.isSome then 0 else 1) ++ encOpt 2 enc2 (o.map (·.dieNumber)) ++ encOpt 2 enc2 (o.map (·.check.toNat))

/-- The READ-LIBRARY report (R113). -/
def State.libraryReport (s : State) : List Byte := s.tps.library.toList.flatMap encSlot ++ encFlag s.tps.deviceFault

/-- READ_LIBRARY (R113). -/
def execReadLibrary (s : State) : Result := .next (s.request .readLibrary .readLibrary fun s => .deliver s s.libraryReport)

/-! ### COMMIT-TEMPLATE (R107 to R110) -/

/-- The commit coordinate: the greater of L and the greatest start among the open zones (R108 step 1). -/
def State.commitPoint (s : State) : Coord :=
  s.activeStrands.foldl (fun m st => match openStart? (s.track st) with | some a => max m a | none => m) s.L

/-- The generation after g (R108 step 3). -/
def nextGeneration (g : Nat) : Nat := if g = 255 then 1 else g + 1

/-- The Template Store at a commit (R108 steps 1 to 3). -/
def Tps.commit (t : Tps) (p : Template) (a : Governing) (c : Coord) : Tps :=
  { t with commitCoord := some c, previous := some a, active := some { template := p, generation := nextGeneration a.generation } }

/-- An accepted commit: the working templates, the boundaries strand by strand, then the planner and the markers (R108,
R109). -/
def State.commit (s : State) (p : Template) (a : Governing) : State :=
  let s1 := s.onTps fun t => t.commit p a s.commitPoint
  ((s1.activeStrands.foldl (fun s st => s.boundaryHere st true) s1).replan).remark

/-- Whether the die run takes a commit (R107 step 1). -/
def RunState.commits : RunState → Bool
  | .running => true
  | .dead => true
  | .idle => false
  | .armed => false
  | .draining => false

/-- COMMIT_TEMPLATE (R107, R108). -/
def execCommitTemplate (s : State) : Result :=
  .next (s.request .commitTemplate .commitTemplate fun s =>
    if s.rc.run.commits = false then .refuse s .aborted
    else if s.tps.protection = .locked then .refuse s .locked
    else if s.tps.previous.isSome then .refuse s .inUse
    else
      match s.tps.work, s.tps.active with
      | some p, some a =>
        if p.inOrder = false then .refuseAt s .check (.field p.badField 0)
        else if p.strandCount ≠ s.rc.active then .refuseAt s .range (.field 2 0)
        else .ok (s.commit p a) (enc1 (nextGeneration a.generation) ++ encTU (s.commitPoint : Int))
      | _, _ => .refuse s .check)

/-! ### Protection (R114 to R118) -/

/-- The code that a code value names. -/
def Tps.code (t : Tps) : Nat → Option (Option (List Byte))
  | 0 => some t.lineCode
  | 1 => some t.qualityCode
  | _ => none

/-- UNLOCK (R115); a code value with no meaning is refused with RANGE after the first two checks (R209, log 21). -/
def execUnlock (code : Nat) (bytes : List Byte) (s : State) : Result :=
  .next (s.request (.unlock code bytes) .unlock fun s =>
    if s.tps.frozen then .refuse s .locked
    else if s.tps.attempts = 0 then .refuse s .locked
    else
      match s.tps.code code with
      | none => .refuse s .range
      | some held =>
        if s.tps.protection = .unprotected then .ok s []
        else if code = 0 ∧ s.tps.level = .strict then .refuse s .locked
        else if held = some bytes then .ok (s.onTps fun t => { t with protection := .opened }) (enc1 s.tps.attempts)
        else .ends (s.onTps fun t => { t with attempts := t.attempts - 1 }) .locked (enc1 (s.tps.attempts - 1)) .none 0)

/-- What SET-CODE names, where code, action and level are named values (R116 step 4). -/
def codeWriteOf (code action : Nat) (bytes : List Byte) (level : Nat) : Option CodeWrite :=
  match code, action, levelOf level with
  | 0, 0, some l => some (.setLine bytes l)
  | 0, 1, some _ => some .removeLine
  | 1, 0, some _ => some (.setQuality bytes)
  | 1, 1, some _ => some .removeQuality
  | _, _, _ => none

/-- SET_CODE (R116). -/
def execSetCode (code action : Nat) (bytes : List Byte) (level : Nat) (s : State) : Result :=
  .next (s.request (.setCode code action bytes level) .setCode fun s =>
    if s.tps.frozen then .refuse s .locked
    else if s.tps.attempts = 0 then .refuse s .locked
    else if s.tps.protection = .locked then .refuse s .locked
    else
      match codeWriteOf code action bytes level with
      | none => .refuse s .range
      | some w => if s.tps.deviceFault then .refuse s .deviceFault else .goesOn s (.busy (.codeWrite w)))

/-- The changeover to new codes at a successful completion (R116). -/
def Tps.writeCode (t : Tps) : CodeWrite → Tps
  | .setLine b l =>
    { t with lineCode := some b, level := l,
             protection := match t.protection with | .unprotected => .opened | .opened => .opened | .locked => .locked }
  | .setQuality b => { t with qualityCode := some b }
  | .removeLine => { t with lineCode := none, level := .normal, protection := .unprotected }
  | .removeQuality => { t with qualityCode := none }

/-- CODE_WRITE_COMPLETION, with the outcome of the verify (R116); without a write of codes in progress nothing comes of it
(log 7). -/
def execCodeWriteCompletion (verified : Bool) (s : State) : Result :=
  .next (match s.lp.port with
    | .busy (.codeWrite w) =>
      if verified then (s.onTps fun t => t.writeCode w).endLater .setCode .none [] .none 0
      else (s.onTps fun t => { t with deviceFault := true }).endLater .setCode .deviceFault [] .none 0
    | _ => s)

/-- LOCK (R117). -/
def execLock (s : State) : Result :=
  .next (s.request .lock .lock fun s =>
    match s.tps.protection with
    | .opened => .ok (s.onTps fun t => { t with protection := .locked }) []
    | .locked => .ok s []
    | .unprotected => .refuse s .aborted)

/-- FREEZE_CODES (R117). -/
def execFreezeCodes (s : State) : Result :=
  .next (s.request .freezeCodes .freezeCodes fun s => .ok (s.onTps fun t => { t with frozen := true }) [])

/-- The READ-PROTECTION report (R118). -/
def State.protectionReport (s : State) : List Byte :=
  encFlag s.tps.lineCode.isSome ++ enc1 s.tps.protection.code ++ enc1 s.tps.level.code ++ enc1 s.tps.attempts
    ++ encFlag s.tps.frozen ++ encFlag s.tps.qualityCode.isSome ++ encFlag s.tps.deviceFault

/-- READ_PROTECTION (R118). -/
def execReadProtection (s : State) : Result := .next (s.request .readProtection .readProtection fun s => .deliver s s.protectionReport)

end Sys2Proof.Machine
end

