-- ==== Sys2Proof/Machine/Port.lean ====
section
/-! DEFINITION. The Line Port (10): POLL, FETCH, PUT, ABORT, RESET_PORT, READ_FAULT, CLEAR_FAULT, ACK_ALERTS, RAISE_SOFT, SET_ALERT_MASK, MESSAGE_CHECK_FAILURE, UNKNOWN_REQUEST_NAME, HARDWARE_RESET. -/

namespace Sys2Proof.Machine

open Sys2Proof

/-! ### POLL and FETCH (R199, R200) -/

/-- The data of a REPLY to POLL: in READY, the result record (R199). -/
def State.pollData (s : State) : List Byte := if s.lp.port.isReady then s.resultBytes else []

/-- POLL: answered in every port state; it changes nothing but the REPLY (R199). -/
def execPoll (s : State) : Result := .next (s.respond .none false s.pollData)

/-- A block delivered by a FETCH: the transfer buffer, and the REPLY with the last mark (R200). -/
def State.deliverBlock (s : State) (block : List Byte) (last : Bool) : State :=
  (s.onLp fun p => { p with buffer := block }).respond .none last block

/-- The failing item of a READ-ZONES that ends in a hole (R187). -/
def zonesItem (e : ErrCode) (q : Coord) : FaultItem := if e = .notFound then .coordinate q else .none

/-- A FETCH of READ-ZONES (R186, R187, R200). -/
def State.fetchZones (s : State) (r : ZoneRead) : State :=
  let a := s.assemble r.strand r.count r.block r.q r.delivered
  let s1 := match a.ends with
    | some e => s.endLater .readZones e [] (zonesItem e a.q) (if e = ErrCode.none then 0 else a.delivered)
    | none => s.onLp fun p => { p with port := .dataOut (.zones { r with q := a.q, delivered := a.delivered }) }
  s1.deliverBlock (s.zoneBlock a.records) a.ends.isSome

/-- Where LIST-ARRIVED stands after a block. -/
def lastOf (last : Option (Nat × Nat)) (ps : List Piece) : Option (Nat × Nat) :=
  match ps.getLast? with
  | some p => some (p.cutNumber, p.strand.val)
  | none => last

/-- A FETCH of LIST-ARRIVED (R162, R200). -/
def State.fetchArrived (s : State) (last : Option (Nat × Nat)) (delivered : Nat) : State :=
  let ps := s.pt.arrivedBlock last
  let done := decide (ps.length < Config.arrivedBlock)
  let s1 := if done then s.endLater .listArrived .none [] .none 0
    else s.onLp fun p => { p with port := .dataOut (.arrived (lastOf last ps) (delivered + ps.length)) }
  s1.deliverBlock (enc1 s.pt.arrived.length ++ ps.flatMap encPiece) done

/-- FETCH (R200). -/
def execFetch (s : State) : Result :=
  .next (match s.lp.port with
    | .dataOut (.snapshot name) => (s.endLater name .none [] .none 0).deliverBlock s.lp.buffer true
    | .dataOut (.zones r) => s.fetchZones r
    | .dataOut (.arrived last d) => s.fetchArrived last d
    | .ready => s.respond .aborted false []
    | .busy _ => s.respond .aborted false []
    | .dataIn _ => s.respond .aborted false [])

/-! ### PUT (R194, R196, R200) -/

/-- How many spans the next block must hold (R194). -/
def SpanPut.due (p : SpanPut) : Nat := min p.block (p.count - p.next)

/-- A block put to HOLD-SPANS: taken where its shape is right, else the request is refused with RANGE (R194). DESIGN CHOICE (log 61): the
PUT is answered before any span of its block is applied, so its REPLY shows DATA-IN and no end that a span brings. -/
def State.putBlock (s : State) (p : SpanPut) (body : List Byte) : State :=
  if body.length = 15 * p.due then
    (s.onLp fun q => { q with port := .dataIn { p with waiting := readSpans p.due body }, buffer := body }).respond .none false []
  else
    let s1 := s.endLater .holdSpans .range [] (.span p.next) 0
    s1.respond .none false s1.resultBytes

/-- PUT handed to the port (R200), once the spans of the block before have been applied (log 24). -/
def State.put (s : State) (body : List Byte) : State :=
  match s.lp.port with
  | .dataIn p => s.putBlock p body
  | .ready => s.respond .aborted false []
  | .busy _ => s.respond .aborted false []
  | .dataOut _ => s.respond .aborted false []

/-- PUT (R194, R196, R200): an empty body is answered CHECK, one above 1,200 bytes FULL. -/
def execPut (body : List Byte) (s : State) : Result :=
  .next (if body.length = 0 then s.respond .check false []
    else if 1200 < body.length then s.respond .full false []
    else s.finishSpans.put body)

/-! ### ABORT and RESET-PORT (R201, R202) -/

/-- The request in progress, the item and the count that its end by ABORT records (R201); none in READY. -/
def PortState.aborts : PortState → Option (ReqName × FaultItem × Nat)
  | .ready => none
  | .busy op => some (op.name, .none, 0)
  | .dataOut (.snapshot name) => some (name, .none, 0)
  | .dataOut (.zones r) => some (.readZones, .none, r.delivered)
  | .dataOut (.arrived _ d) => some (.listArrived, .none, d)
  | .dataIn p => some (.holdSpans, .span p.next, p.next)

/-- ABORT handed to the port (R201): a store's slot is INVALID since its start (R105). -/
def State.abort (s : State) : State :=
  match s.lp.port.aborts with
  | none => s.respond .none false []
  | some (name, item, done) =>
    let s1 := (s.endLater name .aborted [] item done).onLp fun p => { p with buffer := [] }
    s1.respond .none false s1.resultBytes

/-- ABORT (R201). -/
def execAbort (s : State) : Result := .next s.finishSpans.abort

/-- The port after RESET-PORT (R202). -/
def Lp.resetPort (p : Lp) : Lp :=
  { p with port := .ready, request := none, buffer := [], result := none, lastError := .none, fault := none,
           alerts := { p.alerts with pendingSet := p.alerts.pendingSet &&& ~~~ causeMask .requestDone } }

/-- RESET_PORT (R202). -/
def execResetPort (s : State) : Result := .next ((s.finishSpans.onLp Lp.resetPort).respond .none false [])

/-! ### Fault context and alerts (R205, R207) -/

/-- READ_FAULT (R205). -/
def execReadFault (s : State) : Result := .next (s.request .readFault .readFault fun s => .deliver s (encFault s.lp.fault))

/-- CLEAR_FAULT (R205). -/
def execClearFault (s : State) : Result :=
  .next (s.request .clearFault .clearFault fun s => .ok (s.onLp fun p => { p with fault := none }) [])

/-- Write the alert items. -/
def State.onAlerts (s : State) (f : Alerts → Alerts) : State := s.onLp fun p => { p with alerts := f p.alerts }

/-- ACK_ALERTS (R207). -/
def execAckAlerts (causes : AlertSet) (s : State) : Result :=
  .next (s.request (.ackAlerts causes) .ackAlerts fun s =>
    let left := s.lp.alerts.pendingSet &&& ~~~ causes
    .ok (s.onAlerts fun a => { a with pendingSet := left }) (enc2 left.toNat))

/-- RAISE_SOFT: SOFT0 and SOFT1 by their places among the causes (R206, R207, R209; log 21). -/
def execRaiseSoft (cause : Nat) (s : State) : Result :=
  .next (s.request (.raiseSoft cause) .raiseSoft fun s =>
    match cause with
    | 11 => .ok (s.raise .soft0) []
    | 12 => .ok (s.raise .soft1) []
    | _ => .refuse s .range)

/-- SET_ALERT_MASK (R207). -/
def execSetAlertMask (mask : AlertSet) (enable : Bool) (s : State) : Result :=
  .next (s.request (.setAlertMask mask enable) .setAlertMask fun s => .ok (s.onAlerts fun a => { a with maskSet := mask, enable := enable }) [])

/-! ### Messages that fail, and unknown requests (R196, R198) -/

/-- Whether a body length suits a message kind, where the kind is one of the six (R196). -/
def kindSuits (kind : Byte) (n : Nat) : Bool :=
  match kind.toNat with
  | 1 => decide (0 < n)
  | 2 => decide (n = 0)
  | 3 => decide (n = 0)
  | 4 => decide (0 < n)
  | 5 => decide (n = 0)
  | 6 => decide (n = 0)
  | _ => false

/-- The body limit of a message kind (R196). -/
def bodyLimit (kind : Byte) : Nat := if kind = 0x04#8 then 1200 else 240

/-- What the checks of R196 say of the bytes of one select period: none where no message is complete, else the message
answer of the first check that fails, NONE where none does. -/
def messageAnswer (f : List Byte) : Option ErrCode :=
  let n := readNat ((f.drop 1).take 2)
  if f.length < 5 + n then none
  else if (f.drop (3 + n)).take 2 ≠ enc2 (crc16 (f.take (3 + n))).toNat then some .check
  else if kindSuits (f.headD 0) n = false then some .check
  else if bodyLimit (f.headD 0) < n then some .full
  else some .none

/-- MESSAGE_CHECK_FAILURE: a message that fails a check is answered CHECK or FULL and has no other effect; bytes that make no
message are not answered (R196), and a message that passes is not this command's (log 29). -/
def execMessageCheckFailure (frame : List Byte) (s : State) : Result :=
  .next (match messageAnswer frame with
    | none => s
    | some .none => s
    | some e => s.respond e false [])

/-- The request name in a request block: a catalogue name, or the sixteen bytes as sent (R198). -/
def nameOf (block : List Byte) : ReqName :=
  match catalogue.find? (fun n => n.bytes == block.take 16) with
  | some n => n
  | none => .other (block.take 16)

/-- UNKNOWN_REQUEST_NAME: a request whose name is not in the catalogue, or whose block is too short for its fields (R198). -/
def execUnknownRequestName (block : List Byte) (s : State) : Result :=
  .next (s.request (.unknownRequestName block) (nameOf block) fun s => .refuse s .range)

/-! ### HARDWARE_RESET -/

/-- The Template Store after hardware reset: non-volatile storage stays, and the protection state follows it (R99, R101,
R102, R114). -/
def Tps.hardwareReset (t : Tps) : Tps :=
  { Tps.reset with library := t.library, lineCode := t.lineCode, qualityCode := t.qualityCode, level := t.level,
                   protection := if t.lineCode.isSome then .locked else .unprotected }

/-- HARDWARE_RESET: every block at its value after hardware reset; non-volatile storage, the levels at the pins, the commands
that wait and the model's free choices stay. -/
def execHardwareReset (s : State) : Result :=
  .next { State.reset with tps := s.tps.hardwareReset, pins := s.pins, choice := s.choice, pending := s.pending }

end Sys2Proof.Machine
end

