-- ==== Sys2Proof/Machine/Travel.lean ====
section
/-! DEFINITION. Travel counting and the line configuration (01): PHASE_SAMPLE, HANDOVER, SET_LINE, READ_LINE, READ_CHANNELS. -/

namespace Sys2Proof

open Machine

namespace Machine

/-! ### Decoding (R4 to R7) -/

/-- What a sample of the phases of an enabled channel is. -/
inductive Decoded
  | nothing
  | step (d : Dir)
  | illegal
  deriving DecidableEq, Repr

/-- The step of a legal transition in X4, by the table of R4. -/
def x4Step (last new : Phases) : Decoded :=
  match last.p1, last.p2, new.p1, new.p2 with
  | false, false, true, false => .step .up
  | true, false, true, true => .step .up
  | true, true, false, true => .step .up
  | false, true, false, false => .step .up
  | true, false, false, false => .step .down
  | true, true, true, false => .step .down
  | false, true, true, true => .step .down
  | false, false, false, true => .step .down
  | _, _, _, _ => .nothing

/-- A transition in X2: only a change of phase 1 counts, up where its new level differs from phase 2 (R5). -/
def x2Step (last new : Phases) : Decoded :=
  if last.p1 = new.p1 then .nothing else if new.p1 = new.p2 then .step .down else .step .up

/-- A transition in X1: (0, 0) to (1, 0) counts up, and back down (R5). -/
def x1Step (last new : Phases) : Decoded :=
  match last.p1, last.p2, new.p1, new.p2 with
  | false, false, true, false => .step .up
  | true, false, false, false => .step .down
  | _, _, _, _ => .nothing

/-- A sample in COUNT-DIR: a rising edge of phase 1 counts, up when phase 2 is low (R6). -/
def countDirStep (last new : Phases) : Decoded :=
  if last.p1 = false ∧ new.p1 = true then (if new.p2 then .step .down else .step .up) else .nothing

/-- A sample decoded by the channel's mode (R4 to R7). -/
def decodePhases (mode : ChanMode) (last new : Phases) : Decoded :=
  match mode with
  | .countDir => countDirStep last new
  | .x4 => if last.p1 ≠ new.p1 ∧ last.p2 ≠ new.p2 then .illegal else x4Step last new
  | .x2 => if last.p1 ≠ new.p1 ∧ last.p2 ≠ new.p2 then .illegal else x2Step last new
  | .x1 => if last.p1 ≠ new.p1 ∧ last.p2 ≠ new.p2 then .illegal else x1Step last new

/-! ### Conversion (R8, R9) -/

/-- The remainder after a count step, and how many TU the channel's travel moves by (R9). -/
def convert (d : Dir) (scale rem : Nat) : Nat × Nat :=
  match d with
  | .up => ((rem + scale) % 1024, (rem + scale) / 1024)
  | .down => if scale ≤ rem then (rem - scale, 0) else (rem + 1024 * ((scale - rem + 1023) / 1024) - scale, (scale - rem + 1023) / 1024)

/-- A count step at a channel: the count wraps, DIRECTION follows, the step passes through the remainder (R8, R9). -/
def Channel.step (c : Channel) (d : Dir) : Channel :=
  { c with count := (match d with | .up => c.count + 1 | .down => c.count - 1), dir := d,
           remainder := (convert d c.scale c.remainder).1 }

/-- L moved by n TU in a direction, kept in its range, and whether a TU step was dropped (R11, R12). -/
def moveL (d : Dir) (L n : Nat) : Nat × Bool :=
  match d with
  | .up => (min (L + n) Config.coordMax, decide (Config.coordMax < L + n))
  | .down => (L - n, decide (L < n))

/-- A count step at the TCU (R8, R9, R11 to R13): L follows the strand puller; a dropped TU step re-bases. -/
def Tcu.step (t : Tcu) (ch : Chan) (d : Dir) : Tcu :=
  let c1 := (t.chan ch).step d
  let t1 := t.onChan ch fun _ => c1
  if t.puller = ch then
    let m := moveL d t.L (convert d (t.chan ch).scale (t.chan ch).remainder).2
    let t2 := { t1 with L := m.1, Lhw := max t.Lhw m.1 }
    if m.2 then { t2.onChan ch (fun c => { c with remainder := 0 }) with Lbase := m.1, refCount := c1.count } else t2
  else t1

/-- A block's waiting travel event: the L it last took stays noted where one waits already (R14). -/
def noteTravel (o : Option Coord) (old : Coord) : Option Coord :=
  match o with
  | some x => some x
  | none => some old

/-- A travel event is handed to the four blocks (R14). -/
def State.handTravel (s : State) (old : Coord) : State :=
  s.onTravel fun t => { rc := noteTravel t.rc old, iu := noteTravel t.iu old, cps := noteTravel t.cps old, swm := noteTravel t.swm old }

/-- The levels of a channel's phases at its pins. -/
def Pins.phases (p : Pins) : Chan → Phases
  | .a => p.phasesA
  | .b => p.phasesB

/-- Levels arrive at the pins of a channel. -/
def Pins.set (p : Pins) (ch : Chan) (x : Phases) : Pins :=
  match ch with
  | .a => { p with phasesA := x }
  | .b => { p with phasesB := x }

/-- Decoding one sample of an enabled channel: every sample becomes the last phases; a count step, an illegal transition
(ILLEGAL set, ENCODER raised, R7) or nothing comes of it; a count step that moves L is a travel event (R11). -/
def State.takeSample (s : State) (ch : Chan) (x : Phases) : State :=
  let c := s.tcu.chan ch
  let s1 := s.onTcu fun t => t.onChan ch fun c => { c with last := x }
  match decodePhases c.mode c.last x with
  | .nothing => s1
  | .illegal => (s1.onTcu fun t => t.onChan ch fun c => { c with illegal := true }).raise .encoder
  | .step d =>
    let s2 := s1.onTcu fun t => t.step ch d
    if s2.L = s.L then s2 else s2.handTravel s.L

/-- PHASE_SAMPLE: the levels of the phases of a channel are sampled (R4 to R9, R11 to R14). A disabled channel ignores its
inputs (R3). -/
def execPhaseSample (ch : Chan) (p1 p2 : Bool) (s : State) : Result :=
  let x : Phases := { p1 := p1, p2 := p2 }
  let s1 := s.onPins fun p => p.set ch x
  .next (if (s.tcu.chan ch).enable then s1.takeSample ch x else s1)

/-! ### Captures and HANDOVER (R10, R16, R17) -/

/-- A capture of a channel; a disabled channel is not captured (R10). -/
def Channel.captured (c : Channel) : Channel :=
  if c.enable then { c with capturePrev := c.capture, capture := c.count } else c

/-- The strand puller changed over at one event, L kept (R16). -/
def Tcu.handover (t : Tcu) : Tcu :=
  let old := t.puller
  let t1 := { t with chA := t.chA.captured, chB := t.chB.captured }
  let t2 := t1.onChan old.other fun c => { c with remainder := (t.chan old).remainder }
  { t2 with Lbase := t.L, puller := old.other, refCount := (t2.chan old.other).capture }

/-- HANDOVER: taken in DOUBLE mode in RUNNING, DEAD or DRAINING (R16), stray in any other case (R17). -/
def execHandover (s : State) : Result :=
  .next (if s.cfg.pullerMode = .double ∧ s.rc.run.moving = true then s.onTcu Tcu.handover else s.raise .stray)

/-! ### SET-LINE, READ-LINE, READ-CHANNELS -/

/-- The TCU re-initialised from new settings, with the present levels of the phases (R22; for a channel left disabled, which
no sample then moves, log 45). -/
def Tcu.init (c : LineConfig) (p : Pins) : Tcu :=
  { chA := Channel.idle c.aEnable c.aMode c.aScale p.phasesA, chB := Channel.idle c.bEnable c.bMode c.bScale p.phasesB,
    puller := .a, L := 0, Lhw := 0, Lbase := 0, refCount := 0 }

/-- An accepted SET-LINE (R21, R22), at which every line is judged (R171). -/
def State.setConfig (s : State) (c : LineConfig) : State :=
  ((s.onLine fun _ => { valid := true, cfg := c }).onTcu fun _ => Tcu.init c s.pins).judgeLines

/-- SET_LINE (R21, R22). -/
def execSetLine (r : LineRecord) (s : State) : Result :=
  .next (s.request (.setLine r) .setLine fun s =>
    if s.rc.run ≠ .idle then .refuse s .aborted
    else
      match r.firstBad with
      | some n => .refuseAt s .range (.field n 0)
      | none => .ok (s.setConfig r.config) [])

/-- The line configuration record with its validity (R20, R23). -/
def State.lineReport (s : State) : List Byte :=
  let c := s.cfg
  encTU (c.dG0 : Int) ++ encTU (c.dG1 : Int) ++ encTU (c.dG2 : Int) ++ encTU (c.dMK : Int) ++ encTU (c.dSAW : Int)
    ++ encTU (c.latG0 : Int) ++ encTU (c.latG1 : Int) ++ encTU (c.latG2 : Int) ++ enc1 c.pullerMode.code
    ++ enc1 (onOffCode c.aEnable) ++ enc1 c.aMode.code ++ enc2 c.aScale
    ++ enc1 (onOffCode c.bEnable) ++ enc1 c.bMode.code ++ enc2 c.bScale
    ++ encTU (c.gapLimit : Int) ++ enc2 c.cutTimeout ++ encTU (c.lead : Int) ++ encTU (c.minMark : Int)
    ++ encTU (c.minGap : Int) ++ enc1 c.idlePolicy.code ++ enc1 c.markerEnables.toNat
    ++ enc1 (if s.line.valid then 0 else 1)

/-- READ_LINE (R23). -/
def execReadLine (s : State) : Result := .next (s.request .readLine .readLine fun s => .deliver s s.lineReport)

/-- One channel of the READ-CHANNELS report (R24; the width of the remainder, log 12). -/
def Channel.report (c : Channel) : List Byte :=
  enc1 (onOffCode c.enable) ++ enc1 c.mode.code ++ enc2 c.scale ++ encWord c.count ++ enc2 c.remainder
    ++ enc1 c.dir.code ++ encFlag c.illegal ++ encWord c.capture ++ encWord c.capturePrev

/-- The READ-CHANNELS report (R24). -/
def State.channelsReport (s : State) : List Byte :=
  enc1 s.cfg.pullerMode.code ++ enc1 s.tcu.puller.code ++ encTU (s.tcu.L : Int) ++ encTU (s.tcu.Lhw : Int)
    ++ encTU (s.tcu.Lbase : Int) ++ encWord s.tcu.refCount ++ s.tcu.chA.report ++ s.tcu.chB.report

/-- ILLEGAL of each channel cleared. -/
def Tcu.clearIllegal (t : Tcu) : Tcu :=
  { t with chA := { t.chA with illegal := false }, chB := { t.chB with illegal := false } }

/-- READ_CHANNELS: a snapshot, after which ILLEGAL of each channel is cleared (R24). -/
def execReadChannels (s : State) : Result :=
  .next (s.request .readChannels .readChannels fun s => .deliver (s.onTcu Tcu.clearIllegal) s.channelsReport)

end Machine

end Sys2Proof
end

