-- ==== Sys2Proof/Machine/Saw.lean ====
section
/-! DEFINITION. The saw (06, sections 6.3 to 6.7): CUT_DONE, CUT_TIMEOUT_EXPIRY, the edges of SAW_READY, GO_THRESHOLD, SAW_HOLD, SAW_RELEASE, CLEAR_SAW_FAULT, READ_SAW. -/

namespace Sys2Proof.Machine

open Sys2Proof

/-! ### CUT-DONE (R131 to R138) -/

/-- Whether a cut at c is stray in a state that records cuts (R131): c at or below the head, at or above the end of a track,
or the cut counter at 65,534. -/
def State.cutIsStray (s : State) (c : Coord) : Bool :=
  decide (c ≤ s.head) || s.activeStrands.any (fun st => decide (s.trackEnd st ≤ c)) || s.cps.cutCounter == Config.sawCutMax

/-- The saw after a recorded cut in GO (R132 steps 5 to 7). -/
def State.afterPlanned (s : State) : State :=
  let s1 := s.returnReservation.onCps fun c => { c.dropPlan with timeout := none }
  if s1.cps.holdNote then s1.onCps fun c => c.enter .held else s1.sawToReturn

/-- A planned cut (R132). -/
def State.plannedCut (s : State) (c : Coord) : State :=
  (s.recordCut c true { late := s.cps.planLate, unplanned := false, shifted := false, tail := false }).afterPlanned

/-- How many active strands hold c strictly inside a zone of their track (R138). -/
def State.needs (s : State) (c : Coord) : Nat :=
  (s.activeStrands.filter fun st => (s.track st).any (·.strictlyInside c)).length

/-- The number of non-mandatory takes the Track Store would grant (R138, R46). -/
def State.grantable (s : State) : Nat := s.ts.available - Config.reserve

/-- The starts of zones above the head and below the end of every track (R138). -/
def State.shiftCandidates (s : State) : List Coord :=
  (s.activeStrands.flatMap fun st => (s.track st).map (·.start)).filter fun x =>
    decide (s.head < x) && s.activeStrands.all fun st => decide (x < s.trackEnd st)

/-- Distance between two coordinates. -/
def distance (a b : Coord) : Nat := (a - b) + (b - a)

/-- The nearer of two candidates to c, of two equally near the lower (R138). -/
def nearer (c : Coord) (best : Option Coord) (x : Coord) : Option Coord :=
  match best with
  | none => some x
  | some y =>
    if distance x c < distance y c then some x else if distance x c = distance y c then some (min x y) else some y

/-- Where an unplanned cut is recorded, and whether it is shifted (R138); none where no candidate qualifies. -/
def State.cutPlace (s : State) (c : Coord) : Option (Coord × Bool) :=
  if s.needs c ≤ s.grantable then some (c, false)
  else ((s.shiftCandidates.filter fun x => decide (s.needs x ≤ s.grantable)).foldl (nearer c) none).map fun x => (x, true)

/-- A cut that cannot be recorded: SAW-FAULT, and the saw in FAULT (R135, R137, R138). -/
def State.cutFails (s : State) : State := (s.onCps fun c => c.enter .fault).raise .sawFault

/-- A cut without a reservation recorded, where it can be: the state, or none (R137, R138; LATE in FAULT, R135). -/
def State.recordUnplanned (s : State) (c : Coord) (late : Bool) : Option State :=
  if s.pt.available < s.rc.active then none
  else
    match s.cutPlace c with
    | none => none
    | some (x, shifted) =>
      some (((s.raiseIf shifted .coarse).recordCut x false { late := late, unplanned := true, shifted := shifted, tail := false }).onCps
        Cps.dropPlan)

/-- An unplanned cut, in READY or PLANNED (R137, R138), LATE where the plan held was (R132 step 4). -/
def State.unplannedCut (s : State) (c : Coord) : State :=
  match s.recordUnplanned c s.cps.planLate with
  | some s1 => s1.sawToReturn
  | none => s.cutFails

/-- A late cut, in FAULT: with the reservation where one is held, else as an unplanned cut; the saw stays in FAULT (R135). -/
def State.lateCut (s : State) (c : Coord) : State :=
  if 0 < s.pt.setAside then
    (s.recordCut c true { late := true, unplanned := false, shifted := false, tail := false }).returnReservation.onCps Cps.dropPlan
  else
    match s.recordUnplanned c true with
    | some s1 => s1
    | none => s.cutFails

/-- What the Cut Planner does with an edge that has a cut coordinate (R131). -/
def State.takeCut (s : State) (c : Coord) : State :=
  match s.cps.saw with
  | .return_ => s.raise .stray
  | .held => s.raise .stray
  | .go => if s.cutIsStray c then s.raise .stray else s.plannedCut c
  | .fault => if s.cutIsStray c then s.raise .stray else s.lateCut c
  | .ready => if s.cutIsStray c then s.raise .stray else s.unplannedCut c
  | .planned => if s.cutIsStray c then s.raise .stray else s.unplannedCut c

/-- CUT_DONE: the strand puller is captured, the cut coordinate kept, and the edge taken by the saw (R18, R131). -/
def execCutDone (s : State) : Result :=
  let c := s.under s.cfg.dSAW
  let s1 := (s.onTcu fun t => t.onChan t.puller Channel.captured).onCps fun k => { k with latestCapture := c }
  .next (match c with
    | some x => s1.takeCut x
    | none => s1.raise .stray)

/-- CUT_TIMEOUT_EXPIRY: the timeout runs only in GO (R134); in any other state nothing comes of it (log 7). -/
def execCutTimeoutExpiry (s : State) : Result :=
  .next (if s.cps.saw = .go then (s.onCps fun c => { c.enter .fault with timeout := none }).raise .sawFault else s)

/-! ### SAW-READY (R128, R139) and the travel event (R126, R128) -/

/-- SAW_READY_RISING: RETURN is left (R139); in PLANNED the threshold is judged (R128). -/
def execSawReadyRising (s : State) : Result :=
  let s := s.onPins fun p => { p with sawReady := true }
  .next (if s.cps.saw = .return_ then s.sawToReady else s.judgeGo)

/-- SAW_READY_FALLING: the level alone changes (R128, R139). -/
def execSawReadyFalling (s : State) : Result := .next (s.onPins fun p => { p with sawReady := false })

/-- GO_THRESHOLD: the Cut Planner takes the travel event that waits for it (R14, R126, R128); where none waits nothing comes
of it (log 3). -/
def execGoThreshold (s : State) : Result :=
  .next (if s.travel.cps.isSome then (s.onTravel fun t => { t with cps := none }).sawTravel else s)

/-! ### Holding the saw, and clearing its fault (R136, R140, R141) -/

/-- The fields that SAW-HOLD and SAW-RELEASE answer with: the saw state and the hold note (R141). -/
def Cps.holdReply (c : Cps) : List Byte := enc1 c.saw.code ++ encFlag c.holdNote

/-- What SAW-HOLD does to the saw, its note set (R140). -/
def Cps.hold (c : Cps) : Cps :=
  match c.saw with
  | .ready => (c.enter .held).dropPlan
  | .planned => (c.enter .held).dropPlan
  | .return_ => c.enter .held
  | .go => c
  | .fault => c
  | .held => c

/-- SAW_HOLD (R140). -/
def execSawHold (s : State) : Result :=
  .next (s.request .sawHold .sawHold fun s =>
    let s1 := s.onCps fun c => { c with holdNote := true }.hold
    .ok s1 s1.cps.holdReply)

/-- SAW_RELEASE (R141). -/
def execSawRelease (s : State) : Result :=
  .next (s.request .sawRelease .sawRelease fun s =>
    let s1 := s.onCps fun c => { c with holdNote := false }
    let s2 := if s1.cps.saw = .held ∧ s1.rc.run.moving = true then s1.sawToReady else s1
    .ok s2 s2.cps.holdReply)

/-- An accepted CLEAR-SAW-FAULT (R136). -/
def State.clearSaw (s : State) : State :=
  let s1 := s.returnReservation.onCps Cps.dropPlan
  if s1.cps.holdNote then s1.onCps fun c => c.enter .held else s1.sawToReady

/-- CLEAR_SAW_FAULT (R136). -/
def execClearSawFault (s : State) : Result :=
  .next (s.request .clearSawFault .clearSawFault fun s => if s.cps.saw = .fault then .ok s.clearSaw [] else .refuse s .aborted)

/-! ### READ-SAW (R143) -/

/-- The head, absent while no strand is active or the tracks are empty (R143). -/
def State.headShown (s : State) : Option Coord :=
  if s.rc.active = 0 ∨ s.activeStrands.all (fun st => (s.track st).isEmpty) = true then none else some s.head

/-- The kind of the cut-out zone that holds z0, of the lowest strand that has one (R143, log 18). -/
def State.kindAt (s : State) (z0 : Coord) : Option Cond :=
  ((s.activeStrands.flatMap s.track).find? fun z => s.isCutOut z && z.holds z0).bind Zone.kind

/-- The earliest stretch as READ-SAW carries it: z0, z1, absent where unknown (log 48), and the kind (R143). -/
def State.encStretch (s : State) (r : Stretch) : List Byte :=
  encTU (r.z0 : Int) ++ encOptTU r.z1 ++ enc1 (kindCode (s.kindAt r.z0))

/-- The READ-SAW report (R143); a stopped cut timeout and, with no plan, the GO threshold coordinate
are absent items (log 48), and a level is 1 when asserted or high (log 52). -/
def State.sawReport (s : State) : List Byte :=
  enc1 s.cps.saw.code ++ encFlag s.cps.sawGo ++ encFlag s.pins.sawReady ++ encFlag s.cps.holdNote ++ encOptTU s.headShown
    ++ encOptTU s.cps.plan ++ encFlag s.cps.planLate
    ++ encOpt 4 (fun (p : Coord) => encTU ((p : Int) - (s.cfg.lead : Int))) s.cps.plan
    ++ enc1 s.cps.wait.code ++ enc1 s.cps.noPlan.code ++ encOpt 10 s.encStretch s.earliest
    ++ enc1 s.ts.setAside ++ enc1 s.pt.setAside ++ encOpt 2 enc2 s.cps.timeout ++ enc2 s.cps.cutCounter
    ++ encOpt 6 (fun (x : Coord × Nat) => encTU (x.1 : Int) ++ enc2 x.2) s.cps.lastCut ++ encOptTU s.cps.latestCapture

/-- READ_SAW (R143). -/
def execReadSaw (s : State) : Result := .next (s.request .readSaw .readSaw fun s => .deliver s s.sawReport)

end Sys2Proof.Machine
end

