-- ==== Sys2Proof/Machine/Dispatch.lean ====
section
/-! DEFINITION. The meaning of each command, one arm for each constructor of Instr. -/

namespace Sys2Proof.Machine

open Sys2Proof

def exec (i : Instr) (s : State) : Host.Outcome State Fault Refusal :=
  match i with
  | .poll => Sys2Proof.Machine.execPoll s
  | .fetch => Sys2Proof.Machine.execFetch s
  | .put body => Sys2Proof.Machine.execPut body s
  | .abort => Sys2Proof.Machine.execAbort s
  | .resetPort => Sys2Proof.Machine.execResetPort s
  | .setLine r => Sys2Proof.Machine.execSetLine r s
  | .readLine => Sys2Proof.Machine.execReadLine s
  | .readChannels => Sys2Proof.Machine.execReadChannels s
  | .startRun => Sys2Proof.Machine.execStartRun s
  | .noBilletChange => Sys2Proof.Machine.execNoBilletChange s
  | .endRun t => Sys2Proof.Machine.execEndRun t s
  | .abandonRun => Sys2Proof.Machine.execAbandonRun s
  | .readBillets => Sys2Proof.Machine.execReadBillets s
  | .readPool => Sys2Proof.Machine.execReadPool s
  | .readInspection strand => Sys2Proof.Machine.execReadInspection strand s
  | .editTemplate field index value => Sys2Proof.Machine.execEditTemplate field index value s
  | .loadTemplate slot => Sys2Proof.Machine.execLoadTemplate slot s
  | .loadCompletion rb => Sys2Proof.Machine.execLoadCompletion rb s
  | .storeTemplate slot => Sys2Proof.Machine.execStoreTemplate slot s
  | .storeCompletion rb => Sys2Proof.Machine.execStoreCompletion rb s
  | .readTemplate target => Sys2Proof.Machine.execReadTemplate target s
  | .libraryReadCompletion rb => Sys2Proof.Machine.execLibraryReadCompletion rb s
  | .readLibrary => Sys2Proof.Machine.execReadLibrary s
  | .commitTemplate => Sys2Proof.Machine.execCommitTemplate s
  | .unlock code bytes => Sys2Proof.Machine.execUnlock code bytes s
  | .setCode code action bytes level => Sys2Proof.Machine.execSetCode code action bytes level s
  | .codeWriteCompletion verified => Sys2Proof.Machine.execCodeWriteCompletion verified s
  | .lock => Sys2Proof.Machine.execLock s
  | .freezeCodes => Sys2Proof.Machine.execFreezeCodes s
  | .readProtection => Sys2Proof.Machine.execReadProtection s
  | .sawHold => Sys2Proof.Machine.execSawHold s
  | .sawRelease => Sys2Proof.Machine.execSawRelease s
  | .clearSawFault => Sys2Proof.Machine.execClearSawFault s
  | .readSaw => Sys2Proof.Machine.execReadSaw s
  | .retirePiece key order => Sys2Proof.Machine.execRetirePiece key order s
  | .removeCutSet number order => Sys2Proof.Machine.execRemoveCutSet number order s
  | .readPieceByKey key => Sys2Proof.Machine.execReadPieceByKey key s
  | .readPieceByCoordinate strand addr => Sys2Proof.Machine.execReadPieceByCoordinate strand addr s
  | .listArrived => Sys2Proof.Machine.execListArrived s
  | .readTransit => Sys2Proof.Machine.execReadTransit s
  | .markTest strand isolate level => Sys2Proof.Machine.execMarkTest strand isolate level s
  | .readMarkers => Sys2Proof.Machine.execReadMarkers s
  | .findZone strand addr => Sys2Proof.Machine.execFindZone strand addr s
  | .readZones strand addr count block => Sys2Proof.Machine.execReadZones strand addr count block s
  | .walkZones strand start => Sys2Proof.Machine.execWalkZones strand start s
  | .holdSpan strand first second order => Sys2Proof.Machine.execHoldSpan strand first second order s
  | .releaseHold strand first second order => Sys2Proof.Machine.execReleaseHold strand first second order s
  | .overrideZone key value => Sys2Proof.Machine.execOverrideZone key value s
  | .holdSpans count block => Sys2Proof.Machine.execHoldSpans count block s
  | .holdSpansSpanApply order => Sys2Proof.Machine.execHoldSpansSpanApply order s
  | .readFault => Sys2Proof.Machine.execReadFault s
  | .clearFault => Sys2Proof.Machine.execClearFault s
  | .ackAlerts causes => Sys2Proof.Machine.execAckAlerts causes s
  | .raiseSoft cause => Sys2Proof.Machine.execRaiseSoft cause s
  | .setAlertMask mask enable => Sys2Proof.Machine.execSetAlertMask mask enable s
  | .phaseSample ch p1 p2 => Sys2Proof.Machine.execPhaseSample ch p1 p2 s
  | .handover => Sys2Proof.Machine.execHandover s
  | .cutDone => Sys2Proof.Machine.execCutDone s
  | .pressRunRising t => Sys2Proof.Machine.execPressRunRising t s
  | .pressRunFalling => Sys2Proof.Machine.execPressRunFalling s
  | .sawReadyRising => Sys2Proof.Machine.execSawReadyRising s
  | .sawReadyFalling => Sys2Proof.Machine.execSawReadyFalling s
  | .endEye => Sys2Proof.Machine.execEndEye s
  | .hardwareReset => Sys2Proof.Machine.execHardwareReset s
  | .reportArrival g frame => Sys2Proof.Machine.execReportArrival g frame s
  | .gaugeFramingError g => Sys2Proof.Machine.execGaugeFramingError g s
  | .gaugeFrameExpiry g => Sys2Proof.Machine.execGaugeFrameExpiry g s
  | .reportEvaluation g t => Sys2Proof.Machine.execReportEvaluation g t s
  | .futureConditionExpiry => Sys2Proof.Machine.execFutureConditionExpiry s
  | .coverageSweep t => Sys2Proof.Machine.execCoverageSweep t s
  | .goThreshold => Sys2Proof.Machine.execGoThreshold s
  | .cutTimeoutExpiry => Sys2Proof.Machine.execCutTimeoutExpiry s
  | .windowRefill => Sys2Proof.Machine.execWindowRefill s
  | .conditionClaim src => Sys2Proof.Machine.execConditionClaim src s
  | .boundary strand b conds billet generation commit => Sys2Proof.Machine.execBoundary strand b conds billet generation commit s
  | .gaugeFrameStart g => Sys2Proof.Machine.execGaugeFrameStart g s
  | .messageCheckFailure frame => Sys2Proof.Machine.execMessageCheckFailure frame s
  | .unknownRequestName block => Sys2Proof.Machine.execUnknownRequestName block s

end Sys2Proof.Machine
end

