-- ==== Sys2Proof/Machine/Step.lean ====
section
/-! DEFINITION. One step of the block: the command at the front of the queue, or one millisecond of idling. -/

namespace Sys2Proof.Machine

open Sys2Proof

/-- One millisecond in which no command comes: the time left on a running cut timeout goes down by one, not below 0 (06 R120;
log 8). -/
def State.idle (s : State) : State := s.onCps fun c => { c with timeout := c.timeout.map fun n => n - 1 }

/-- The command at the front of the queue runs with the queue's rest; on an empty queue the block idles (log 1, log 8). -/
def step (s : State) : Host.Outcome State Fault Refusal :=
  match s.pending with
  | [] => .next s.idle
  | c :: rest => exec c { s with pending := rest }

/-- A command put at the front of the queue. -/
def State.withFront (s : State) (c : Instr) : State := { s with pending := c :: s.pending }

/-- The command that a word spells, put at the front of the queue; the table gives no row any bits, so no word spells one. -/
def State.withFetchWord (s : State) (nbits w : Nat) : State :=
  match decodeTableWord nbits w with
  | some c => s.withFront c
  | none => s

end Sys2Proof.Machine
end

