-- ==== Sys2Proof/Machine/Wire.lean ====
section
/-! DEFINITION. The bytes of the Line Port read as commands (10 R196, R198, R208, R209): a whole message becomes the command that stands for it. -/

namespace Sys2Proof

open Machine

/-- The request name that a command carries, where it is a request (section 10.3). -/
def Instr.reqName : Instr → Option ReqName
  | .poll => none
  | .fetch => none
  | .put _ => none
  | .abort => none
  | .resetPort => none
  | .setLine _ => some .setLine
  | .readLine => some .readLine
  | .readChannels => some .readChannels
  | .startRun => some .startRun
  | .noBilletChange => some .noBilletChange
  | .endRun _ => some .endRun
  | .abandonRun => some .abandonRun
  | .readBillets => some .readBillets
  | .readPool => some .readPool
  | .readInspection _ => some .readInspection
  | .editTemplate _ _ _ => some .editTemplate
  | .loadTemplate _ => some .loadTemplate
  | .loadCompletion _ => none
  | .storeTemplate _ => some .storeTemplate
  | .storeCompletion _ => none
  | .readTemplate _ => some .readTemplate
  | .libraryReadCompletion _ => none
  | .readLibrary => some .readLibrary
  | .commitTemplate => some .commitTemplate
  | .unlock _ _ => some .unlock
  | .setCode _ _ _ _ => some .setCode
  | .codeWriteCompletion _ => none
  | .lock => some .lock
  | .freezeCodes => some .freezeCodes
  | .readProtection => some .readProtection
  | .sawHold => some .sawHold
  | .sawRelease => some .sawRelease
  | .clearSawFault => some .clearSawFault
  | .readSaw => some .readSaw
  | .retirePiece _ _ => some .retirePiece
  | .removeCutSet _ _ => some .removeCutSet
  | .readPieceByKey _ => some .readPiece
  | .readPieceByCoordinate _ _ => some .readPiece
  | .listArrived => some .listArrived
  | .readTransit => some .readTransit
  | .markTest _ _ _ => some .markTest
  | .readMarkers => some .readMarkers
  | .findZone _ _ => some .findZone
  | .readZones _ _ _ _ => some .readZones
  | .walkZones _ _ => some .walkZones
  | .holdSpan _ _ _ _ => some .holdSpan
  | .releaseHold _ _ _ _ => some .releaseHold
  | .overrideZone _ _ => some .override
  | .holdSpans _ _ => some .holdSpans
  | .holdSpansSpanApply _ => none
  | .readFault => some .readFault
  | .clearFault => some .clearFault
  | .ackAlerts _ => some .ackAlerts
  | .raiseSoft _ => some .raiseSoft
  | .setAlertMask _ _ => some .setAlertMask
  | .phaseSample _ _ _ => none
  | .handover => none
  | .cutDone => none
  | .pressRunRising _ => none
  | .pressRunFalling => none
  | .sawReadyRising => none
  | .sawReadyFalling => none
  | .endEye => none
  | .hardwareReset => none
  | .reportArrival _ _ => none
  | .gaugeFramingError _ => none
  | .gaugeFrameExpiry _ => none
  | .reportEvaluation _ _ => none
  | .futureConditionExpiry => none
  | .coverageSweep _ => none
  | .goThreshold => none
  | .cutTimeoutExpiry => none
  | .windowRefill => none
  | .conditionClaim _ => none
  | .boundary _ _ _ _ _ _ => none
  | .gaugeFrameStart _ => none
  | .messageCheckFailure _ => none
  | .unknownRequestName block => some (nameOf block)

namespace Machine

/-- The orders that the manual leaves to the part and no message carries (log 4, log 5). -/
structure Orders where
  taking : Taking
  span : SpanOrder
  free : FreeOrder
  deriving DecidableEq, Repr

/-- The unsigned number in `n` bytes from byte `i`. -/
def fieldAt (b : List Byte) (i n : Nat) : Nat := readNat ((b.drop i).take n)

/-- A key from four bytes (R209). -/
def keyAt (b : List Byte) (i : Nat) : Key := { slot := fieldAt b i 2, seq := BitVec.ofNat 16 (fieldAt b (i + 2) 2) }

/-- An address from seven bytes (section 10.6). -/
def addressAt (b : List Byte) (i : Nat) : Address := readAddress ((b.drop i).take 7)

/-- The line configuration record of SET-LINE, its fields in the order and encoding of R20 and R209. -/
def lineAt (b : List Byte) : LineRecord :=
  { dG0 := fieldAt b 0 4, dG1 := fieldAt b 4 4, dG2 := fieldAt b 8 4, dMK := fieldAt b 12 4, dSAW := fieldAt b 16 4,
    latG0 := fieldAt b 20 4, latG1 := fieldAt b 24 4, latG2 := fieldAt b 28 4, pullerMode := fieldAt b 32 1,
    aEnable := fieldAt b 33 1, aMode := fieldAt b 34 1, aScale := fieldAt b 35 2, bEnable := fieldAt b 37 1,
    bMode := fieldAt b 38 1, bScale := fieldAt b 39 2, gapLimit := fieldAt b 41 4, cutTimeout := fieldAt b 45 2,
    lead := fieldAt b 47 4, minMark := fieldAt b 51 4, minGap := fieldAt b 55 4, idlePolicy := fieldAt b 59 1,
    markerEnables := fieldAt b 60 1 }

/-- Bytes of the value of a template field, by its type (R209); one byte for a number that names no field (log 40). -/
def valueBytes : Nat → Nat
  | 1 => 2 | 2 => 1 | 3 => 1 | 4 => 4 | 5 => 4 | 6 => 4 | 7 => 4 | 8 => 4 | 9 => 4 | 10 => 4 | 11 => 4 | 16 => 4 | 17 => 2
  | 18 => 2 | _ => 1

/-- The value of EDIT-TEMPLATE: a nominal is signed (R209). -/
def valueAt (b : List Byte) (field : Nat) : Int :=
  if field = 16 then readSigned32 ((b.drop 2).take 4) else (fieldAt b 2 (valueBytes field) : Int)

/-- How many bytes of fields a request has after its name (R198, R209, section 10.6). DESIGN CHOICE (log 40): the slot of STORE-TEMPLATE
and of LOAD-TEMPLATE is one byte, as the target of READ-TEMPLATE is; R209 gives a library slot no type. -/
def fieldBytes (b : List Byte) : ReqName → Nat
  | .setLine => 61
  | .readInspection => 1
  | .editTemplate => 2 + valueBytes (fieldAt b 0 1)
  | .loadTemplate => 1
  | .storeTemplate => 1
  | .readTemplate => 1
  | .unlock => 17
  | .setCode => 19
  | .retirePiece => 4
  | .removeCutSet => 2
  | .readPiece => 9
  | .markTest => 3
  | .findZone => 8
  | .readZones => 11
  | .walkZones => 9
  | .holdSpan => 15
  | .releaseHold => 15
  | .override => 5
  | .holdSpans => 3
  | .ackAlerts => 2
  | .raiseSoft => 1
  | .setAlertMask => 3
  | _ => 0

/-- An alert set from two bytes, where every bit set has a meaning (R208; log 40). -/
def alertSetAt (b : List Byte) (i : Nat) : Option AlertSet :=
  if fieldAt b i 2 < 8192 then some (BitVec.ofNat 13 (fieldAt b i 2)) else none

/-- The start of WALK-ZONES (section 10.6); the bytes after a continuation are not checked (log 50). -/
def walkStartAt (b : List Byte) : WalkStart :=
  match fieldAt b 1 1 with
  | 0 => .address (addressAt b 2)
  | 1 => .continue_ (fieldAt b 2 4)
  | k => .unknown k

/-- The command of a request by its name and the bytes of its fields; none where a field has no meaning that an operand can
carry. Bytes that section 10.6 says are 0 are not checked (log 50). -/
def requestOf (o : Orders) (b : List Byte) : ReqName → Option Instr
  | .setLine => some (.setLine (lineAt b))
  | .readLine => some .readLine
  | .readChannels => some .readChannels
  | .startRun => some .startRun
  | .noBilletChange => some .noBilletChange
  | .endRun => some (.endRun o.taking)
  | .abandonRun => some .abandonRun
  | .readBillets => some .readBillets
  | .readPool => some .readPool
  | .readInspection => some (.readInspection (fieldAt b 0 1))
  | .editTemplate => some (.editTemplate (fieldAt b 0 1) (fieldAt b 1 1) (valueAt b (fieldAt b 0 1)))
  | .loadTemplate => some (.loadTemplate (fieldAt b 0 1))
  | .storeTemplate => some (.storeTemplate (fieldAt b 0 1))
  | .readTemplate => some (.readTemplate (fieldAt b 0 1))
  | .readLibrary => some .readLibrary
  | .commitTemplate => some .commitTemplate
  | .unlock => some (.unlock (fieldAt b 0 1) ((b.drop 1).take 16))
  | .setCode => some (.setCode (fieldAt b 0 1) (fieldAt b 1 1) ((b.drop 2).take 16) (fieldAt b 18 1))
  | .lock => some .lock
  | .freezeCodes => some .freezeCodes
  | .readProtection => some .readProtection
  | .sawHold => some .sawHold
  | .sawRelease => some .sawRelease
  | .clearSawFault => some .clearSawFault
  | .readSaw => some .readSaw
  | .retirePiece => some (.retirePiece (keyAt b 0) o.free)
  | .removeCutSet => some (.removeCutSet (fieldAt b 0 2) o.free)
  | .readPiece =>
    match fieldAt b 0 1 with
    | 0 => some (.readPieceByKey (keyAt b 1))
    | 1 => some (.readPieceByCoordinate (fieldAt b 1 1) (addressAt b 2))
    | _ => none
  | .listArrived => some .listArrived
  | .readTransit => some .readTransit
  | .markTest => some (.markTest (fieldAt b 0 1) (fieldAt b 1 1) (fieldAt b 2 1))
  | .readMarkers => some .readMarkers
  | .findZone => some (.findZone (fieldAt b 0 1) (addressAt b 1))
  | .readZones => some (.readZones (fieldAt b 0 1) (addressAt b 1) (fieldAt b 8 2) (fieldAt b 10 1))
  | .walkZones => some (.walkZones (fieldAt b 0 1) (walkStartAt b))
  | .holdSpan => some (.holdSpan (fieldAt b 0 1) (addressAt b 1) (addressAt b 8) o.span)
  | .releaseHold => some (.releaseHold (fieldAt b 0 1) (addressAt b 1) (addressAt b 8) o.span)
  | .override => some (.overrideZone (keyAt b 0) (fieldAt b 4 1))
  | .holdSpans => some (.holdSpans (fieldAt b 0 2) (fieldAt b 2 1))
  | .readFault => some .readFault
  | .clearFault => some .clearFault
  | .ackAlerts => (alertSetAt b 0).map .ackAlerts
  | .raiseSoft => some (.raiseSoft (fieldAt b 0 1))
  | .setAlertMask =>
    match alertSetAt b 0, onOffOf (fieldAt b 2 1) with
    | some m, some e => some (.setAlertMask m e)
    | _, _ => none
  | .other _ => none

/-- The command of a request block (R198): a name the catalogue lacks, a block too short, or a field without a meaning makes
the command that is refused with RANGE; bytes after the fields are ignored (log 53). -/
def ofRequest (o : Orders) (block : List Byte) : Instr :=
  let b := block.drop 16
  if block.length < 16 + fieldBytes b (nameOf block) then .unknownRequestName block
  else (requestOf o b (nameOf block)).getD (.unknownRequestName block)

/-- The command that a message of the host makes; none where the bytes make no message (R196). -/
def ofMessage (o : Orders) (f : List Byte) : Option Instr :=
  let body := (f.drop 3).take (readNat ((f.drop 1).take 2))
  match messageAnswer f with
  | none => none
  | some .none =>
    match (f.headD 0).toNat with
    | 1 => some (ofRequest o body)
    | 2 => some .poll
    | 3 => some .fetch
    | 4 => some (.put body)
    | 5 => some .abort
    | _ => some .resetPort
  | some _ => some (.messageCheckFailure f)

/-- A message of the host received: its command joins the queue (log 1). -/
def State.receive (o : Orders) (f : List Byte) (s : State) : State :=
  { s with pending := s.pending ++ (ofMessage o f).toList }

end Machine

end Sys2Proof
end

