-- ==== Sys2Proof/Safety.lean ====
section
/-! DEFINITION. What the statements speak of: sound states (the travel counter's ranges, the sizes of the tables, the order of billets and of the transit queue), runs, and how a command answers at the Line Port. -/

namespace Sys2Proof

open Machine

namespace Machine

/-! ### Sound states -/

/-- A channel as R3 and R9 keep it: its remainder below 1,024, and a disabled channel at rest. -/
def Channel.sound (c : Channel) : Prop :=
  c.remainder < 1024 ∧
    (c.enable = false → c.count = 0 ∧ c.remainder = 0 ∧ c.capture = 0 ∧ c.capturePrev = 0 ∧ c.dir = .up ∧ c.illegal = false)

/-- The travel counter as R9, R11 and R13 keep it: L at or below its high-water mark, that in range, both channels sound. -/
def Tcu.sound (t : Tcu) : Prop :=
  t.L ≤ t.Lhw ∧ t.Lhw ≤ Config.coordMax ∧ t.chA.sound ∧ t.chB.sound

/-- The travel counter sound, and both channels enabled where the pullers alternate (R16, R21). -/
def State.travelSound (s : State) : Prop :=
  s.tcu.sound ∧ (s.line.cfg.pullerMode = .double → s.tcu.chA.enable = true ∧ s.tcu.chB.enable = true)

/-- Every table within its size: the transit queue (R151), the report queues (R76), the billet table (R41), the attempt
counter (R114). -/
def State.withinSizes (s : State) : Prop :=
  s.pt.queue.length ≤ Config.transitQueue ∧ s.iu.g0.queue.length ≤ Config.reportQueue
    ∧ s.iu.g1.queue.length ≤ Config.reportQueue ∧ s.iu.g2.queue.length ≤ Config.reportQueue
    ∧ s.rc.billets.length ≤ Config.billetTable ∧ s.tps.attempts ≤ 5

/-- Billets oldest first, ordinals rising by one and starts strictly rising (R41). -/
def billetsOrdered : List Billet → Prop
  | [] => True
  | [_] => True
  | a :: b :: bs => b.ordinal = a.ordinal + 1 ∧ a.start < b.start ∧ billetsOrdered (b :: bs)

/-- The transit queue strictly increasing, no number in it above the cut counter, and the number of every piece in transit in
it (R133, R151). -/
def State.queueOrdered (s : State) : Prop :=
  s.pt.queue.Pairwise (· < ·) ∧ (∀ n ∈ s.pt.queue, n ≤ s.cps.cutCounter)
    ∧ ∀ p ∈ s.pt.pieces, p.state = .transit → p.cutNumber ∈ s.pt.queue

/-- Every cause of one set is in another. -/
def causesGrow (a b : AlertSet) : Prop := a &&& b = a

/-- A run of n steps that stops at no fault and no refusal. -/
def State.runs (s : State) (n : Nat) : Prop := ∃ t, Host.Core.run Sys2Proof.core n s = .next t

/-- Zones that follow one another from a to e with no gap, each with an end but perhaps the last, which then reaches without
limit: `e` is absent (R54). -/
def covers (a : Coord) (e : Option Coord) : List Zone → Prop
  | [] => e = some a
  | z :: zs =>
    z.start = a ∧
      match z.stop? with
      | some m => a < m ∧ covers m e zs
      | none => zs = [] ∧ e = none

/-- The stretch from a to t as a track covers it once its open zone is closed at t; where a is t, the one zone that may hold no
metal (R54). -/
def endsAt (a t : Coord) (zs : List Zone) : Prop :=
  (a < t ∧ covers a (some t) zs) ∨ (a = t ∧ ∃ z, zs = [z] ∧ z.start = t ∧ z.stop? = some t)

/-- Every zone that stands in a track or in the zone list of a piece (R53). -/
def State.heldZones (s : State) : List Zone := s.ts.tracks.toList.flatten ++ s.pt.pieces.flatMap (·.zones)

/-- The slots of both stores: each is free or held by one zone or piece, never both and never twice, and a held slot has the
sequence number of its key (R44, R45, R53, R144). -/
def State.slotsSound (s : State) : Prop :=
  (s.ts.free ++ s.heldZones.map (·.key.slot)).Perm (List.range 1024)
    ∧ (∀ z ∈ s.heldZones, s.ts.seqs[z.key.slot]? = some z.key.seq)
    ∧ (s.pt.free ++ s.pt.pieces.map (·.key.slot)).Perm (List.range 32)
    ∧ ∀ p ∈ s.pt.pieces, s.pt.seqs[p.key.slot]? = some p.key.seq

/-- The tracks (R54): an inactive strand holds no zone; the active ones start at one strand first coordinate, and run on without
a gap into their open zone, or in DRAINING to the tail coordinate, or hold nothing once the tail is released. Every zone names its
strand and no piece. -/
def State.tracksSound (s : State) : Prop :=
  (∀ st : Strand, s.rc.active ≤ st.val → s.track st = [])
    ∧ (∀ st : Strand, st.val < s.rc.active → s.ts.first[st] = s.head
        ∧ (s.rc.run = .armed ∨ s.rc.run = .running ∨ s.rc.run = .dead → covers s.head none (s.track st))
        ∧ (s.rc.run = .draining → s.rc.tailReleased = false → ∃ t, s.rc.tail = some t ∧ endsAt s.head t (s.track st))
        ∧ (s.rc.run = .draining → s.rc.tailReleased = true → s.track st = []))
    ∧ ∀ (st : Strand), ∀ z ∈ s.track st, z.strand = st ∧ z.piece? = none

/-- The pieces (R145, R146): head below tail, the zones cover the stretch without a gap and name piece and strand, the verdict is that
of the zones as they stand; the pieces of a strand lie one above the other, below the strand first coordinate. -/
def State.piecesSound (s : State) : Prop :=
  (∀ p ∈ s.pt.pieces, p.strand.val < s.rc.active ∧ p.head < p.tail ∧ covers p.head (some p.tail) p.zones
      ∧ p.tail ≤ s.ts.first[p.strand] ∧ p.verdict = verdictOf p.zones ∧ ∀ z ∈ p.zones, z.strand = p.strand ∧ z.piece? = some p.key)
    ∧ s.pt.pieces.Pairwise fun p q => p.strand = q.strand → p.tail ≤ q.head

/-- The die run and the reservation: IDLE has no active strand (R39, R40), in IDLE and ARMED there is no piece and the saw is HELD
(R39, R121, R131), the tail coordinate is held in DRAINING alone (R37, R38), and slots are set aside for every active strand in GO, for every one or
for none in FAULT, and for none in the other states (R130, R134, R147). -/
def State.reservationSound (s : State) : Prop :=
  (s.rc.run = .idle → s.rc.active = 0)
    ∧ (s.rc.run = .idle ∨ s.rc.run = .armed → s.cps.saw = .held ∧ s.pt.pieces = [])
    ∧ (s.rc.run ≠ .draining → s.rc.tail = none ∧ s.rc.tailReleased = false)
    ∧ s.ts.setAside ≤ s.ts.free.length ∧ s.pt.setAside ≤ s.pt.free.length
    ∧ (s.ts.setAside = 0 ∧ s.pt.setAside = 0 ∧ s.cps.saw ≠ .go
        ∨ s.ts.setAside = s.rc.active ∧ s.pt.setAside = s.rc.active ∧ (s.cps.saw = .go ∨ s.cps.saw = .fault))

/-- The records as the rules keep them. -/
def State.recordsSound (s : State) : Prop := s.slotsSound ∧ s.tracksSound ∧ s.piecesSound ∧ s.reservationSound

/-- Every VALID window holds the record of its zone as it stands in the track, and its second record that of the zone which
follows (R164, R167, R168, R170). -/
def State.windowsCurrent (s : State) : Prop :=
  ∀ (st : Strand) (z : Zone) (n : Option NextZone), s.swm.windows[st] = .valid z n →
    z ∈ s.track st ∧ n = s.nextRecord st z.key

/-- The port holds a request exactly while it is not READY, and it is the one whose course the port keeps (R197). -/
def Lp.holdsRequest (p : Lp) : Prop :=
  (p.port = .ready → p.request = none) ∧ p.request.bind Instr.reqName = p.port.aborts.map (·.1)

/-- What a zone says of its metal: its conditions, severity, override, billet and generation. -/
def Zone.says (z : Zone) : CondSet × Severity × Option Disp × Nat × Nat := (z.conds, z.severity, z.override, z.billet, z.generation)

end Machine

/-- What a zone says once a claim has marked it (R64, R68). -/
def Claim.saysAfter (c : Claim) (z : Zone) : CondSet × Severity × Option Disp × Nat × Nat :=
  match c.action with
  | .add k => (addCond z.conds k, z.severity.sup c.severity, z.override, z.billet, z.generation)
  | .removeHeld => (dropCond z.conds .held, z.severity, z.override, z.billet, z.generation)

/-- The part of a claim's range that lies below future metal (R60). -/
def Claim.reaches (c : Claim) (s : State) (x : Coord) : Prop :=
  c.x1 ≤ x ∧ x < c.x2 ∧ ((openStart? (s.track c.strand)).isSome = true → x < s.trackEnd c.strand)

namespace Machine

/-- The blocks that no change of records reaches (R66): travel, configuration, die run, inspection, inputs and waiting commands are as
they were; of the Template Store the late strands and the commit coordinate alone may differ, of the port the pending causes, none of
them lost. -/
def State.blocksKept (s t : State) : Prop :=
  t.tcu = s.tcu ∧ t.line = s.line ∧ t.travel = s.travel ∧ t.rc = s.rc ∧ t.iu = s.iu ∧ t.pins = s.pins ∧ t.pending = s.pending
    ∧ t.tps = { s.tps with late := t.tps.late, commitCoord := t.tps.commitCoord }
    ∧ t.lp = { s.lp with alerts := { s.lp.alerts with pendingSet := t.lp.alerts.pendingSet } }
    ∧ causesGrow s.lp.alerts.pendingSet t.lp.alerts.pendingSet

/-- The state with one more cause pending (R206). -/
def State.withCause (s : State) (c : AlertCause) : State :=
  { s with lp := { s.lp with alerts := { s.lp.alerts with pendingSet := s.lp.alerts.pendingSet ||| causeMask c } } }

/-- The GO threshold judged (R125, R128 to R130): outside PLANNED nothing changes. In PLANNED a plan that has become late is moved;
below the threshold the wait reason is none; at it, SAW with SAW-READY low, PIECES or POOL where a reservation is refused, and else
GO, with a slot of each kind set aside for every active strand and the cut timeout started, POOL-LOW raised exactly where the count of
available zone slots falls from 17 or above to 16 or below (R47). -/
def State.goJudged (s t : State) : Prop :=
  (s.cps.saw ≠ .planned ∨ s.cps.plan = none → t = s)
  ∧ ∀ p, s.cps.saw = .planned → s.cps.plan = some p →
    let reach := s.tcu.L - s.line.cfg.dSAW + s.line.cfg.lead
    let held := { s.cps with plan := some (max p reach), planLate := s.cps.planLate || decide (p < reach) }
    let n := s.rc.active
    (s.tcu.L < s.line.cfg.dSAW ∨ reach < p → t = { s with cps := { s.cps with wait := .none } })
    ∧ (s.line.cfg.dSAW ≤ s.tcu.L → p ≤ reach →
        (s.pins.sawReady = false → t = { s with cps := { held with wait := .saw } })
        ∧ (s.pins.sawReady = true → s.pt.available < n → t = { s with cps := { held with wait := .pieces } })
        ∧ (s.pins.sawReady = true → n ≤ s.pt.available → s.ts.available < n → t = { s with cps := { held with wait := .pool } })
        ∧ (s.pins.sawReady = true → n ≤ s.pt.available → n ≤ s.ts.available →
            t = { s with ts := { s.ts with setAside := s.ts.setAside + n }, pt := { s.pt with setAside := s.pt.setAside + n },
                         cps := { held with saw := .go, wait := .none, noPlan := .none, timeout := some s.line.cfg.cutTimeout },
                         lp := if 17 ≤ s.ts.available ∧ s.ts.free.length - (s.ts.setAside + n) ≤ 16 then (s.withCause .poolLow).lp else s.lp }))

/-- The Cut Planner plans (R126 to R130): outside READY and PLANNED nothing changes; where there is no plan the saw is READY with the
reason; else the plan is held, the saw PLANNED and the threshold judged. A wait reason does not outlive PLANNED (log 15). -/
def State.replans (s t : State) : Prop :=
  (s.cps.saw ≠ .ready → s.cps.saw ≠ .planned → t = s)
  ∧ (s.cps.saw = .ready ∨ s.cps.saw = .planned →
      (∀ r, s.computePlan = .noPlan r →
        t = { s with cps := { s.cps with saw := .ready, plan := none, planLate := false, wait := .none, noPlan := r } })
      ∧ ∀ p late, s.computePlan = .plan p late →
        { s with cps := { s.cps with saw := .planned, plan := some p, planLate := late, noPlan := .none } }.goJudged t)

/-- A moment v within a command begun in s, at which the Cut Planner may plan with the saw as it was in s: travel, line, inputs, ACTIVE,
strands, billets, tail, head, piece slots and reservation are those of s. -/
def State.plansAt (s v : State) : Prop :=
  v.tcu = s.tcu ∧ v.line = s.line ∧ v.pins = s.pins ∧ v.tps.active = s.tps.active ∧ v.cps = s.cps
    ∧ v.rc = { s.rc with run := v.rc.run, future := v.rc.future } ∧ v.ts.first = s.ts.first ∧ v.ts.setAside = s.ts.setAside
    ∧ v.pt.free = s.pt.free ∧ v.pt.setAside = s.pt.setAside

/-- The saw and its reservation while records change (R126, R128): as they were outside READY and PLANNED; there as they were, or as
planning within the command leaves them. -/
def State.sawKept (s t : State) : Prop :=
  let as := fun (w : State) => t.cps = w.cps ∧ t.ts.setAside = w.ts.setAside ∧ t.pt.setAside = w.pt.setAside
  (s.cps.saw ≠ .ready → s.cps.saw ≠ .planned → as s)
    ∧ (s.cps.saw = .ready ∨ s.cps.saw = .planned → as s ∨ ∃ v w : State, s.plansAt v ∧ v.replans w ∧ as w)

/-- Only the records differ: tracks, slots, the zones of the pieces, plan, windows, lines, free choices (R66: what a claim can reach).
The other blocks, the strand first coordinates, the piece slots, the transit queue, the head mark, the pieces but for zones, verdict and
AMENDED, and the items of the Cut Planner that outlive a plan stay, and the saw is as planning can leave it. -/
def State.onlyRecords (s t : State) : Prop :=
  let born := fun (x : State) => x.pt.pieces.map fun p => { p with zones := [], verdict := .prime, amended := false }
  s.blocksKept t ∧ t.ts.first = s.ts.first ∧ t.pt = { s.pt with pieces := t.pt.pieces, setAside := t.pt.setAside } ∧ born t = born s
    ∧ t.cps.cutCounter = s.cps.cutCounter ∧ t.cps.lastCut = s.cps.lastCut ∧ t.cps.latestCapture = s.cps.latestCapture
    ∧ t.cps.holdNote = s.cps.holdNote ∧ s.sawKept t

/-- A change that plans anew whatever it has changed (R109, R121, R126): records, perhaps with planning on the way, then planning on the
records as they stand. The windows follow: a VALID one may take its next record anew, and every line is judged (R169, R170). -/
def State.plansAnew (s t : State) : Prop :=
  ∃ v w : State, s.onlyRecords v ∧ v.replans w ∧ t = { w with swm := t.swm }
    ∧ ∀ st : Strand, t.swm.lines[st] = t.judged st w.swm.lines[st]
      ∧ (t.swm.windows[st] = w.swm.windows[st]
        ∨ ∃ z n, w.swm.windows[st] = .valid z n ∧ t.swm.windows[st] = .valid z (t.nextRecord st z.key))

/-- A claim, a boundary or an override, whole (R66, R126): the records change, with the saw as it was, to v; then the Cut Planner plans
on them, or does not. The records sound, it plans wherever metal from the head to the longest piece above it says otherwise than before. -/
def State.changesThenPlans (s v t : State) : Prop :=
  s.onlyRecords v ∧ v.cps = s.cps ∧ (t = v ∨ v.replans t)
    ∧ (s.recordsSound → (∃ (st : Strand) (x : Coord), s.head ≤ x ∧ x ≤ s.head + s.activeTemplate.maxLen
        ∧ (t.walkZone st x).map Zone.says ≠ (s.walkZone st x).map Zone.says) → v.replans t)

/-- The plan held is the plan of the records as they stand, its threshold judged (R126 to R129): in READY there is none, for the reason
shown; in PLANNED it is the one computed, and the wait reason is none below the threshold, SAW with SAW-READY low, PIECES without a
slot for every strand, else POOL. -/
def State.planStands (t : State) : Prop :=
  let c := t.cps
  let n := t.rc.active
  (c.saw = .ready → c.plan = none ∧ c.planLate = false ∧ t.computePlan = .noPlan c.noPlan)
  ∧ (c.saw = .planned → ∃ p, c.plan = some p ∧ t.computePlan = .plan p c.planLate
      ∧ let reached := t.line.cfg.dSAW ≤ t.tcu.L ∧ p ≤ t.tcu.L - t.line.cfg.dSAW + t.line.cfg.lead
        (c.wait = .none ↔ ¬ reached) ∧ (c.wait = .saw ↔ reached ∧ t.pins.sawReady = false)
        ∧ (c.wait = .pieces ↔ reached ∧ t.pins.sawReady = true ∧ t.pt.available < n))

/-- The port keeps its state, its buffer, its mask set and its fault context, and loses no pending cause (R206). -/
def State.portKept (s t : State) : Prop :=
  t.lp = { s.lp with alerts := { s.lp.alerts with pendingSet := t.lp.alerts.pendingSet } }
    ∧ causesGrow s.lp.alerts.pendingSet t.lp.alerts.pendingSet

/-- What a change of zones makes of the pieces (R66, R146, R155): the same pieces in their order, each with the verdict of its zones;
an ARRIVED one whose verdict changes is AMENDED, and the cause is raised for such a change alone. -/
def State.amends (s t : State) : Prop :=
  let amended := fun (p q : Piece) => p.state = .arrived ∧ q.verdict ≠ p.verdict
  t.pt.pieces.length = s.pt.pieces.length
    ∧ (∀ (i : Nat) (p q : Piece), s.pt.pieces[i]? = some p → t.pt.pieces[i]? = some q → q.verdict = verdictOf q.zones
        ∧ q = { p with zones := q.zones, verdict := q.verdict, amended := q.amended }
        ∧ (q.amended = true ↔ p.amended = true ∨ amended p q))
    ∧ (hasCause t.lp.alerts.pendingSet .amended = true ↔ hasCause s.lp.alerts.pendingSet .amended = true
        ∨ ∃ (i : Nat) (p q : Piece), s.pt.pieces[i]? = some p ∧ t.pt.pieces[i]? = some q ∧ amended p q)

/-- The end of the metal of a strand (R55, R187): the end of its track, the open zone reaching to the greater of L and its start; the
highest tail of its pieces where the track is empty. -/
def State.metalEnd (s : State) (st : Strand) : Coord :=
  match (s.track st).getLast? with
  | some z => (match z.stop? with | some e => e | none => max s.tcu.L z.start)
  | none => (s.piecesOf st).foldl (fun m p => max m p.tail) 0

/-- A walk up a strand from q over these zones, each looked up where the one before ends and shown from the coordinate named; it stands
then at q', which after an open zone is where that zone was looked up (R184, R186). -/
def State.walks (s : State) (st : Strand) : Coord → List (Zone × Coord) → Coord → Prop
  | q, [], q' => q' = q
  | q, (z, x) :: zs, q' => s.walkZone st q = some z ∧ x = max z.start q
      ∧ match z.stop? with
        | some e => s.walks st e zs q'
        | none => zs = [] ∧ q' = q

/-- A cut set of number n born with the pieces ps (R149): ARRIVED where the head mark is set, which it clears; TRANSIT where the
transit queue has a place, which its number takes; else ARRIVED and LATE. -/
def State.bears (s t : State) (n : Nat) (late : Bool) (ps : List Piece) : Prop :=
  t.pt.pieces = s.pt.pieces ++ ps ∧ t.pt.headMark = false
    ∧ (s.pt.headMark = true → (∀ q ∈ ps, q.state = .arrived ∧ q.late = late) ∧ t.pt.queue = s.pt.queue
        ∧ hasCause t.lp.alerts.pendingSet .arrived = true)
    ∧ (s.pt.headMark = false → s.pt.queue.length < 8 → (∀ q ∈ ps, q.state = .transit ∧ q.late = late)
        ∧ t.pt.queue = s.pt.queue ++ [n])
    ∧ (s.pt.headMark = false → 8 ≤ s.pt.queue.length → (∀ q ∈ ps, q.state = .arrived ∧ q.late = true)
        ∧ t.pt.queue = s.pt.queue ∧ hasCause t.lp.alerts.pendingSet .arrived = true)

/-- A low coordinate as R42 takes it: the lowest head of all pieces, or the strand first coordinate where there is no piece. -/
def State.holdsDownTo (s : State) (low : Coord) : Prop :=
  (s.pt.pieces = [] → low = s.head)
    ∧ (s.pt.pieces ≠ [] → (∃ q ∈ s.pt.pieces, q.head = low) ∧ ∀ q ∈ s.pt.pieces, low ≤ q.head)

/-- The billet drop (R42): the oldest entries leave the table, each while the next one starts at or below the low coordinate, and no
further; the newest stays. -/
def billetsDropped (low : Coord) (bs left : List Billet) : Prop :=
  ∃ gone, bs = gone ++ left ∧ (bs ≠ [] → left ≠ []) ∧ (∀ b c r, left = b :: c :: r → low < c.start)
    ∧ ∀ l b c r, bs = l ++ b :: c :: r → l.length < gone.length → c.start ≤ low

/-- A cut recorded at x (R132 steps 1 to 4, R133, R138, R148): the next cut number, one new piece from the head to the cut for every
active strand with these flags, the head at the cut; the records sound, the metal says in its new pieces and above them what it
said in its tracks (R70). Of the other blocks Run Control drops billets (R42), and the alerts gain causes. -/
def State.recordsCut (s t : State) (x : Coord) (late unplanned shifted : Bool) : Prop :=
  let n := s.cps.cutCounter + 1
  t.tcu = s.tcu ∧ t.line = s.line ∧ t.iu = s.iu ∧ t.tps = s.tps ∧ t.pins = s.pins ∧ t.travel = s.travel
    ∧ t.rc = { s.rc with billets := t.rc.billets } ∧ t.pending = s.pending
    ∧ (∃ low, t.holdsDownTo low ∧ billetsDropped low s.rc.billets t.rc.billets)
    ∧ t.lp = { s.lp with alerts := { s.lp.alerts with pendingSet := t.lp.alerts.pendingSet } }
    ∧ causesGrow s.lp.alerts.pendingSet t.lp.alerts.pendingSet
    ∧ t.cps.cutCounter = n ∧ t.cps.lastCut = some (x, n) ∧ t.cps.latestCapture = s.cps.latestCapture
    ∧ t.cps.holdNote = s.cps.holdNote
    ∧ (∀ st : Strand, t.ts.first[st] = if st.val < s.rc.active then x else s.ts.first[st])
    ∧ ∃ ps, s.bears t n late ps ∧ ps.map (·.strand) = s.activeStrands
        ∧ ∀ q ∈ ps, q.head = s.head ∧ q.tail = x ∧ q.cutNumber = n ∧ q.unplanned = unplanned ∧ q.shifted = shifted
            ∧ q.tailFlag = false ∧ q.amended = false ∧ q.verdict = verdictOf q.zones
    ∧ (s.recordsSound → ∀ (st : Strand) (y : Coord), (t.walkZone st y).map Zone.says = (s.walkZone st y).map Zone.says)

/-- Pieces freed with their zones, and the billet drop that follows (R42, R45, R144, R156, R157): they leave the table; the records
sound, their slots and those of their zones are free, each with its sequence number advanced; only the windows and the transit queue
may differ besides. -/
def State.freesPieces (s t : State) (ps : List Piece) : Prop :=
  t = { s with
          ts := { s.ts with free := t.ts.free, seqs := t.ts.seqs },
          pt := { s.pt with free := t.pt.free, seqs := t.pt.seqs, queue := t.pt.queue,
                            pieces := s.pt.pieces.filter fun q => ps.all fun p => q.key != p.key },
          rc := { s.rc with billets := t.rc.billets }, swm := t.swm }
    ∧ (∃ low, t.holdsDownTo low ∧ billetsDropped low s.rc.billets t.rc.billets)
    ∧ (s.recordsSound → s.windowsCurrent → t.swm = s.swm)
    ∧ (s.recordsSound → ∀ p ∈ ps, p.key.slot ∈ t.pt.free ∧ t.pt.seqs[p.key.slot]? = some (p.key.seq + 1)
        ∧ ∀ z ∈ p.zones, z.key.slot ∈ t.ts.free ∧ t.ts.seqs[z.key.slot]? = some (z.key.seq + 1))

/-- The return from DRAINING to IDLE (R39), taken by every block (R92, R121, R159, R169, R175). -/
def State.endsDraining (s t : State) : Prop :=
  t.rc = { s.rc with run := .idle, active := 0, tail := none, tailReleased := false }
  ∧ t.tcu = s.tcu ∧ t.line = s.line ∧ t.travel = s.travel ∧ t.tps = s.tps ∧ t.pins = s.pins ∧ t.pending = s.pending
  ∧ t.ts = { s.ts with setAside := 0 } ∧ t.pt = { s.pt with setAside := 0, headMark := false }
  ∧ t.cps = { s.cps with saw := .held, plan := none, planLate := false, wait := .none, noPlan := .none, timeout := none }
  ∧ (∀ g : Gauge, (t.iu.link g).queue = [] ∧ (t.iu.link g).blind = none ∧ ∀ st : Strand, (t.iu.link g).covered[st] = 0)
  ∧ (∀ (st : Strand) (i : Fin 12), (t.iu.trackers[st])[i] = Tracker.fresh)
  ∧ (∀ st : Strand, t.swm.windows[st] = .empty
      ∧ ((s.swm.lines[st]).isolated = true → t.swm.lines[st] = s.swm.lines[st])
      ∧ ((s.swm.lines[st]).isolated = false → (t.swm.lines[st]).on = false ∧ (t.swm.lines[st]).onPoint = none))
  ∧ t.lp = (s.withCause .runState).lp

/-- The strands that give a piece at a release of the tail at x (R38). -/
def State.gives (s : State) (x : Coord) : List Strand := s.activeStrands.filter fun st => decide (s.ts.first[st] ≠ x)

/-- Tail release is due at the tail coordinate x (R38, R142): in DRAINING, not made yet, L − d_SAW at or above x, and a piece slot free
for every strand that gives a piece, those of a reservation counted. -/
def State.releaseDue (s : State) (x : Coord) : Prop :=
  s.rc.run = .draining ∧ s.rc.tailReleased = false ∧ s.rc.tail = some x ∧ s.line.cfg.dSAW + x ≤ s.tcu.L
    ∧ (s.gives x).length ≤ s.pt.free.length

/-- What tail release makes of the saw (R142): PLANNED goes to READY with no plan and reason TAIL; GO goes to FAULT, its plan kept and
its timeout stopped; in every other state nothing changes. -/
def Cps.atRelease (c : Cps) : Cps :=
  match c.saw with
  | .planned => { c with saw := .ready, plan := none, planLate := false, wait := .none, noPlan := .tail }
  | .go => { c with saw := .fault, wait := .none, noPlan := .none, timeout := none }
  | .ready => c
  | .return_ => c
  | .fault => c
  | .held => c

/-- The tail released at x (R38, R71, R142, R150): the saw first, SAW-FAULT raised and the reservation returned where it was in GO; no
active strand keeps a track, and their first coordinate is x; the strands that give a piece make the TAIL set, from their first
coordinate to x, with the next cut number and the zones of their tracks in order; billets drop. -/
def State.tailGone (s t : State) (x : Coord) : Prop :=
  let given := s.gives x
  let n := s.cps.cutCounter + 1
  t.rc = { s.rc with tailReleased := true, billets := t.rc.billets }
  ∧ (∃ low, t.holdsDownTo low ∧ billetsDropped low s.rc.billets t.rc.billets)
  ∧ t.tcu = s.tcu ∧ t.line = s.line ∧ t.travel = s.travel ∧ t.iu = s.iu ∧ t.tps = s.tps ∧ t.pins = s.pins ∧ t.pending = s.pending
  ∧ t.lp = { s.lp with alerts := { s.lp.alerts with pendingSet := t.lp.alerts.pendingSet } }
  ∧ causesGrow s.lp.alerts.pendingSet t.lp.alerts.pendingSet
  ∧ (∀ st : Strand, (st.val < s.rc.active → t.ts.tracks[st] = [] ∧ t.ts.first[st] = x)
      ∧ (s.rc.active ≤ st.val → t.ts.tracks[st] = s.ts.tracks[st] ∧ t.ts.first[st] = s.ts.first[st]))
  ∧ t.cps = { s.cps.atRelease with cutCounter := if given = [] then s.cps.cutCounter else n }
  ∧ (s.cps.saw = .go → hasCause t.lp.alerts.pendingSet .sawFault = true)
  ∧ (s.cps.saw = .go ∨ s.cps.saw = .fault → t.ts.setAside = 0 ∧ t.pt.setAside = 0)
  ∧ (s.cps.saw ≠ .go → s.cps.saw ≠ .fault → t.ts.setAside = s.ts.setAside ∧ t.pt.setAside = s.pt.setAside)
  ∧ (given = [] → t.pt.pieces = s.pt.pieces ∧ t.pt.queue = s.pt.queue ∧ t.pt.headMark = s.pt.headMark)
  ∧ (given ≠ [] → ∃ ps, s.bears t n false ps ∧ ps.map (·.strand) = given
      ∧ ∀ q ∈ ps, q.head = s.ts.first[q.strand] ∧ q.tail = x ∧ q.cutNumber = n ∧ q.tailFlag = true ∧ q.unplanned = false
          ∧ q.shifted = false ∧ q.amended = false ∧ q.verdict = verdictOf q.zones
          ∧ q.zones.map (fun z => (z.key, z.start, z.says)) = (s.track q.strand).map (fun z => (z.key, z.start, z.says)))

/-- Tail release made at x, with the return to IDLE where no piece is then held (R38, R39). -/
def State.releasesTail (s t : State) (x : Coord) : Prop :=
  ∃ v, s.tailGone v x ∧ (v.pt.pieces ≠ [] → t = v) ∧ (v.pt.pieces = [] → v.endsDraining t)

/-- What Run Control makes of a free of pieces (R38, R39, R157): the tail release that is due, or the return to IDLE of a run whose
tail has been released and which holds no piece, or nothing. -/
def State.takesFree (s t : State) : Prop :=
  (∀ x, s.releaseDue x → s.releasesTail t x)
  ∧ ((∀ x, ¬ s.releaseDue x) →
      let ended := s.rc.run = .draining ∧ s.rc.tailReleased = true ∧ s.pt.pieces = []
      (ended → s.endsDraining t) ∧ (¬ ended → t = s))

/-- A retire or a removal of pieces, whole (R156 to R158): they are freed, and Run Control and the Cut Planner take the free in the
order named. -/
def State.retires (s t : State) (ps : List Piece) (queue : List Nat) (o : FreeOrder) : Prop :=
  ∃ v w, s.freesPieces v ps ∧ v.pt.queue = queue
    ∧ (o = .releaseFirst → v.takesFree w ∧ w.goJudged t) ∧ (o = .sawFirst → v.goJudged w ∧ w.takesFree t)

/-- What planning in READY and PLANNED leaves (R126, R127, R130): no plan in READY and a reason; or a plan, in PLANNED or already
in GO. -/
def Cps.planned (c : Cps) : Prop :=
  (c.saw = .ready ∧ c.plan = none ∧ c.planLate = false ∧ c.noPlan ≠ .none)
    ∨ ((c.saw = .planned ∨ c.saw = .go) ∧ c.plan.isSome = true ∧ c.noPlan = .none)

/-- A marker line where no mark is made (R173, R175, R176): kept while isolated, or while its strand is active and enabled under
the policy RETAIN; OFF in every other case. -/
def MarkLine.atRest (l : MarkLine) (c : LineConfig) (active : Nat) (st : Strand) : MarkLine :=
  if l.isolated = true ∨ (hasStrand c.markerEnables st = true ∧ st.val < active ∧ c.idlePolicy = .retain) then l
  else { l with on := false, onPoint := none }

/-! ### Fields as section 10.6 lays them out -/

/-- The seven bytes of an address. -/
def addressBytes : Address → List Byte
  | .abs c => enc1 0 ++ enc2 (c / 65536) ++ enc2 c ++ zeros 2
  | .station code offset =>
    let w := (BitVec.ofInt 24 offset).toNat
    enc1 1 ++ enc1 code ++ enc1 (w / 65536) ++ enc2 w ++ zeros 2
  | .billet ordinal offset => enc1 2 ++ enc2 ordinal ++ enc2 (offset / 65536) ++ enc2 offset
  | .unknown mode => enc1 mode ++ zeros 6

/-- The 61 bytes of a line configuration record: the fields of R20 in order of their numbers. -/
def lineBytes (r : LineRecord) : List Byte :=
  let four := fun (n : Nat) => enc2 (n / 65536) ++ enc2 n
  four r.dG0 ++ four r.dG1 ++ four r.dG2 ++ four r.dMK ++ four r.dSAW ++ four r.latG0 ++ four r.latG1 ++ four r.latG2
    ++ enc1 r.pullerMode ++ enc1 r.aEnable ++ enc1 r.aMode ++ enc2 r.aScale ++ enc1 r.bEnable ++ enc1 r.bMode ++ enc2 r.bScale
    ++ four r.gapLimit ++ enc2 r.cutTimeout ++ four r.lead ++ four r.minMark ++ four r.minGap ++ enc1 r.idlePolicy
    ++ enc1 r.markerEnables

/-! ### How a command answers -/

/-- A REPLY shows the state t, field by field, with this answer, last mark and data: port state (R197), DEVICE-FAULT (R102), whether a
fault context is held and its OVERRUN (R204), ALERT and the global enable (R206), last error (R199), pending set (R206, R208). -/
def State.shows (t : State) (r : Reply) (answer : ErrCode) (last : Bool) (data : List Byte) : Prop :=
  let a := t.lp.alerts
  r.answer = answer ∧ r.lastMark = last ∧ r.data = data
    ∧ (r.port = .ready ↔ t.lp.port = .ready) ∧ (r.port = .busy ↔ ∃ op, t.lp.port = .busy op)
    ∧ (r.port = .dataOut ↔ ∃ c, t.lp.port = .dataOut c) ∧ (r.port = .dataIn ↔ ∃ p, t.lp.port = .dataIn p)
    ∧ r.deviceFault = t.tps.deviceFault
    ∧ (r.contextHeld = true ↔ t.lp.fault ≠ none) ∧ (r.overrun = true ↔ ∃ c, t.lp.fault = some c ∧ c.overrun = true)
    ∧ (r.alert = true ↔ a.enable = true ∧ ∃ c : AlertCause, hasCause a.pendingSet c = true ∧ hasCause a.maskSet c = false)
    ∧ r.enable = a.enable ∧ r.lastError = t.lp.lastError ∧ r.pendingSet = a.pendingSet

/-- The REPLY shows the state it is sent in, with this answer, last mark and data (R196, R208). -/
def State.shown (t : State) (answer : ErrCode) (last : Bool) (data : List Byte) : Prop :=
  t.lp.reply = some (t.replyTo answer last data)

/-- A message answered with no effect but the REPLY (R196). -/
def answersOnly (c : Instr) (s : State) (answer : ErrCode) (data : List Byte) : Prop :=
  exec c s = .next { s with lp := { s.lp with reply := some (s.replyTo answer false data) } }

/-- A request ends at its taking, having left the state u: READY, no request in progress, last error, result record, fault context; the transfer buffer
and the alert causes as in u; the REPLY carries the result record (R198, R199, R204). -/
def endsAs (c : Instr) (s u : State) (n : ReqName) (e : ErrCode) (fields : List Byte) (item : FaultItem) : Prop :=
  ∃ t, exec c s = .next t ∧ t = { u with lp := t.lp } ∧ t.lp.port = .ready ∧ t.lp.request = none ∧ t.lp.lastError = e
    ∧ t.lp.result = some { name := n, error := e, fields := fields } ∧ t.lp.fault = faultAfter u.lp.fault n e item 0
    ∧ t.lp.buffer = u.lp.buffer ∧ t.lp.alerts = u.lp.alerts
    ∧ t.shown .none false (ResultRecord.bytes { name := n, error := e, fields := fields })

/-- A request refused at its taking: nothing but the port changes. -/
def refusedAs (c : Instr) (s : State) (n : ReqName) (e : ErrCode) (item : FaultItem) : Prop := endsAs c s s n e [] item

/-- A request that has left the state u goes on, the port in state p, holding it as the request in progress (R197, R198; log 41). -/
def goesOnAs (c : Instr) (s u : State) (p : PortState) : Prop :=
  ∃ t, exec c s = .next t ∧ t = { u with lp := t.lp } ∧ t.lp.port = p ∧ t.lp.request = some c ∧ t.lp.result = none ∧ t.lp.lastError = u.lp.lastError
    ∧ t.lp.fault = u.lp.fault ∧ t.lp.buffer = u.lp.buffer ∧ t.lp.alerts = u.lp.alerts ∧ t.shown .none false []

/-- A request that has left the state u delivers a snapshot: the block is in the transfer buffer and the port DATA-OUT,
holding the request in progress (R197, R198; log 41). -/
def deliversAs (c : Instr) (s u : State) (n : ReqName) (block : List Byte) : Prop :=
  ∃ t, exec c s = .next t ∧ t = { u with lp := t.lp } ∧ t.lp.port = .dataOut (.snapshot n) ∧ t.lp.request = some c ∧ t.lp.buffer = block
    ∧ t.lp.result = none ∧ t.lp.lastError = u.lp.lastError ∧ t.lp.fault = u.lp.fault ∧ t.lp.alerts = u.lp.alerts
    ∧ t.shown .none false []

/-- The port p after a request has ended at a later event than its taking: READY, no request in progress, last error, result record, fault context,
REQUEST-DONE pending (R199, R204). -/
def Lp.endedLater (p : Lp) (n : ReqName) (e : ErrCode) (fields : List Byte) (item : FaultItem) (done : Nat) : Lp :=
  { p with port := .ready, request := none, lastError := e, result := some { name := n, error := e, fields := fields },
           fault := faultAfter p.fault n e item done,
           alerts := { p.alerts with pendingSet := p.alerts.pendingSet ||| causeMask .requestDone } }

end Machine

end Sys2Proof
end

