-- ==== Sys2Proof/WellFormed.lean ====
section
/-! DEFINITION. Well-formed commands: operands that the wire and the blocks of the part can carry. The meanings are total and do not rest on it; the checks of the rules (RANGE and the rest) are made by the meanings. -/

namespace Sys2Proof

/-- A number that one byte carries (R209). -/
def fitsByte (n : Nat) : Bool := n < 256

/-- A number that two bytes carry (R209). -/
def fitsTwo (n : Nat) : Bool := n < 65536

/-- A number that four bytes carry (R209). -/
def fitsFour (n : Nat) : Bool := n ≤ Config.coordMax

/-- A signed number that three bytes carry (R208, the offset of a STATION address). -/
def fitsSigned24 (n : Int) : Bool := -8388608 ≤ n ∧ n ≤ 8388607

/-- A signed number that four bytes carry (R209). -/
def fitsSigned32 (n : Int) : Bool := -2147483648 ≤ n ∧ n ≤ 2147483647

/-- A key that four bytes carry (R209). -/
def Key.wf (k : Key) : Bool := fitsTwo k.slot

/-- An address that the seven bytes of R208 carry; `unknown` stands for a mode byte that is none of the three. -/
def Address.wf : Address → Bool
  | .abs c => fitsFour c
  | .station code offset => fitsByte code && fitsSigned24 offset
  | .billet ordinal offset => fitsTwo ordinal && fitsFour offset
  | .unknown mode => fitsByte mode && 3 ≤ mode

/-- A start of WALK-ZONES that R208 carries; `unknown` stands for a start kind that is neither of the two. -/
def WalkStart.wf : WalkStart → Bool
  | .address a => a.wf
  | .continue_ q => fitsFour q
  | .unknown kind => fitsByte kind && 2 ≤ kind

/-- A line configuration record whose fields fit their encodings (R209). -/
def LineRecord.wf (r : LineRecord) : Bool :=
  [r.dG0, r.dG1, r.dG2, r.dMK, r.dSAW, r.latG0, r.latG1, r.latG2, r.gapLimit, r.lead, r.minMark, r.minGap].all fitsFour
    && [r.pullerMode, r.aEnable, r.aMode, r.bEnable, r.bMode, r.idlePolicy, r.markerEnables].all fitsByte
    && [r.aScale, r.bScale, r.cutTimeout].all fitsTwo

/-- A template every field of which lies in its range (R96), its lengths in the order of R98: the only ones the part
writes to its library. -/
def Template.inRange (t : Template) : Bool :=
  t.dieNumber ≤ 65535 ∧ 1 ≤ t.strandCount ∧ t.strandCount ≤ 4 ∧ t.features.length ≤ 12 ∧ t.noseLen ≤ 2000000
    ∧ t.weldLen ≤ 500000 ∧ t.stopBefore ≤ 100000 ∧ t.stopAfter ≤ 100000 ∧ t.endScrap ≤ 500000
    ∧ 5000 ≤ t.target ∧ t.target ≤ 1200000 ∧ 5000 ≤ t.minLen ∧ t.minLen ≤ 1200000
    ∧ 5000 ≤ t.maxLen ∧ t.maxLen ≤ 1200000 ∧ t.cutOut.toNat ≤ 15
    ∧ 1 ≤ t.nOut ∧ t.nOut ≤ 15 ∧ 1 ≤ t.mIn ∧ t.mIn ≤ 15
    ∧ t.features.all (fun f => -8388608 ≤ f.nominal && f.nominal ≤ 8388607 && f.lower ≤ 65535 && f.upper ≤ 65535) = true

/-- A finding that a gauge can give (R52): a feature 0 to 11 of a dimensional gauge, or a flaw class 0 to 7 of the camera. -/
def Finding.wf (f : Finding) : Bool :=
  fitsFour f.loc && fitsSigned32 f.dev && (match f.station with | .g1 => f.item < 8 | _ => f.item < 12)

/-- A claim whose range lies in the coordinates (its upper end one TU above the highest coordinate at most, R60). -/
def Claim.wf (c : Claim) : Bool :=
  fitsFour c.x1 && c.x2 ≤ Config.coordMax + 1 && (match c.finding with | some f => f.wf | none => true)

/-- A command whose operands can be sent. -/
def Instr.wf : Instr → Bool
  | .put body => 1 ≤ body.length && body.length ≤ 1200
  | .setLine r => r.wf
  | .readInspection s => fitsByte s
  | .editTemplate field index value => fitsByte field && fitsByte index && -2147483648 ≤ value && value ≤ 4294967295
  | .loadTemplate slot => fitsByte slot
  | .loadCompletion rb => (match rb with | some t => t.inRange | none => true)
  | .storeTemplate slot => fitsByte slot
  | .storeCompletion rb => (match rb with | some t => t.inRange | none => true)
  | .readTemplate target => fitsByte target
  | .libraryReadCompletion rb => (match rb with | some t => t.inRange | none => true)
  | .unlock code bytes => fitsByte code && bytes.length == 16
  | .setCode code action bytes level => fitsByte code && fitsByte action && bytes.length == 16 && fitsByte level
  | .retirePiece key _ => key.wf
  | .removeCutSet number _ => fitsTwo number
  | .readPieceByKey key => key.wf
  | .readPieceByCoordinate s addr => fitsByte s && addr.wf
  | .markTest s isolate level => fitsByte s && fitsByte isolate && fitsByte level
  | .findZone s addr => fitsByte s && addr.wf
  | .readZones s addr count block => fitsByte s && addr.wf && fitsTwo count && fitsByte block
  | .walkZones s start => fitsByte s && start.wf
  | .holdSpan s a b _ => fitsByte s && a.wf && b.wf
  | .releaseHold s a b _ => fitsByte s && a.wf && b.wf
  | .overrideZone key value => key.wf && fitsByte value
  | .holdSpans count block => fitsTwo count && fitsByte block
  | .raiseSoft cause => fitsByte cause
  | .reportArrival _ frame => frame.length == 9 && frame.head? == some 0xA5#8
  | .conditionClaim src => (match src with | .arriving c => c.wf | .handed _ => true)
  | .boundary _ b _ billet generation _ =>
    fitsFour b && 1 ≤ billet && billet ≤ 65535 && 1 ≤ generation && generation ≤ 255
  | .messageCheckFailure frame => 5 ≤ frame.length
  | .unknownRequestName block => 1 ≤ block.length && block.length ≤ 240
  | .poll | .fetch | .abort | .resetPort | .readLine | .readChannels | .startRun | .noBilletChange | .endRun _ | .abandonRun
  | .readBillets | .readPool | .readLibrary | .commitTemplate | .codeWriteCompletion _ | .lock | .freezeCodes | .readProtection
  | .sawHold | .sawRelease | .clearSawFault | .readSaw | .listArrived | .readTransit | .readMarkers | .holdSpansSpanApply _
  | .readFault | .clearFault | .ackAlerts _ | .setAlertMask _ _ | .phaseSample _ _ _ | .handover | .cutDone | .pressRunRising _
  | .pressRunFalling | .sawReadyRising | .sawReadyFalling | .endEye | .hardwareReset | .gaugeFramingError _ | .gaugeFrameExpiry _
  | .reportEvaluation _ _ | .futureConditionExpiry | .coverageSweep _ | .goThreshold | .cutTimeoutExpiry | .windowRefill
  | .gaugeFrameStart _ => true

end Sys2Proof
end

