-- ==== Sys2Proof/Certificates/Slice0/Obligations.lean ====
section
/-! DEFINITION. The statements for the provers. -/

open Sys2Proof Sys2Proof.Machine

/-! ### The queue, and what every step keeps -/

/-- A step runs the command at the front of the queue with the queue's rest (the model's queue, log 1). -/
def Obligations.StepRunsFrontCommand : Prop :=
  ∀ (c : Instr) (rest : List Instr) (s : State), step { s with pending := c :: rest } = exec c { s with pending := rest }

/-- A step on an empty queue is one millisecond: the time left on a running cut timeout goes down by one, not below 0, and
nothing else changes (the model's choice, log 8). -/
def Obligations.IdleStepRunsTheTimeout : Prop :=
  ∀ s : State, s.pending = [] → step s = .next { s with cps := { s.cps with timeout := s.cps.timeout.map fun n => n - 1 } }

/-- Every command, in every state, completes, and leaves the commands that wait behind it as they were (the queue of
waiting commands is the model's own, log 1). -/
def Obligations.EveryCommandCompletes : Prop :=
  ∀ (c : Instr) (s : State), ∃ t, exec c s = .next t ∧ t.pending = s.pending

/-- The travel counter keeps its ranges at every step: L at or below L_hw, both in range, every remainder below 1,024, a
disabled channel at rest. -/
def Obligations.StepKeepsTravelSound : Prop :=
  ∀ s t : State, s.travelSound → step s = .next t → t.travelSound

/-- Every step keeps every table within its size, and the port holds a request in progress exactly while it is not READY (held as
the command its block was read as: log 41). -/
def Obligations.StepKeepsTablesWithinSizes : Prop :=
  (∀ s t : State, s.withinSizes → step s = .next t → t.withinSizes)
  ∧ ∀ s t : State, s.lp.holdsRequest → step s = .next t → t.lp.holdsRequest

/-- Right after hardware reset the travel counter has its ranges, every table is within its size, the billet table and the
transit queue are in order, the records are sound, the windows current and no request in progress. -/
def Obligations.ResetIsSound : Prop :=
  State.reset.travelSound ∧ State.reset.withinSizes ∧ billetsOrdered State.reset.rc.billets ∧ State.reset.queueOrdered
    ∧ State.reset.recordsSound ∧ State.reset.windowsCurrent ∧ State.reset.lp.holdsRequest

/-- Every step keeps the billet table in order: ordinals rising by one, starts strictly rising. -/
def Obligations.StepKeepsBilletsOrdered : Prop :=
  ∀ s t : State, billetsOrdered s.rc.billets → step s = .next t → billetsOrdered t.rc.billets

/-- The transit queue stays strictly increasing, below the cut counter, and holds the number of every piece in transit. A
START-RUN is taken with the queue and the Piece Table empty, as IDLE leaves them (R26, R151). -/
def Obligations.CommandsKeepTransitQueueOrdered : Prop :=
  ∀ (c : Instr) (s t : State), s.queueOrdered → (c = .startRun → s.pt.queue = [] ∧ s.pt.pieces = []) → exec c s = .next t →
    t.queueOrdered

/-- A pending cause stays pending through every command but an acknowledgement, a port reset and hardware reset. -/
def Obligations.PendingCausesStay : Prop :=
  ∀ (c : Instr) (s t : State), (∀ m, c ≠ .ackAlerts m) → c ≠ .resetPort → c ≠ .hardwareReset → exec c s = .next t →
    causesGrow s.lp.alerts.pendingSet t.lp.alerts.pendingSet

/-- HARDWARE_RESET puts every block at its value after hardware reset; the library, the codes and the level stay, the
protection state is LOCKED where a LINE code is held. (The levels at the pins, the commands that wait and the model's free
choices stay, and no gauge frame is open: log 9.)
After hardware reset of a part not yet set up, the values the manual states, block by block: every field of the invalid line configuration
reads 0, a named value its first, but for the settings of the channels, which are off, X4 and 1,024; every slot of both stores is free
with sequence number 0; every tracker is IN with nothing counted; every library slot is INVALID, both codes are absent and the level is
NORMAL; the saw is HELD, SAW-GO low, without plan, reasons or reservation; every window is EMPTY and every line OFF and not isolated;
and the port is READY with no request in progress. -/
def Obligations.HardwareResetLeavesResetValues : Prop :=
  (∀ s : State, exec .hardwareReset s = .next
    { State.reset with
      tps := { Tps.reset with library := s.tps.library, lineCode := s.tps.lineCode, qualityCode := s.tps.qualityCode,
                              level := s.tps.level,
                              protection := if s.tps.lineCode.isSome then .locked else .unprotected },
      pins := s.pins, choice := s.choice, pending := s.pending })
  ∧ let s := State.reset
  (s.tcu.L = 0 ∧ s.tcu.Lhw = 0 ∧ s.tcu.Lbase = 0 ∧ s.tcu.refCount = 0 ∧ s.tcu.puller = .a)
    ∧ (∀ c : Chan, (s.tcu.chan c).enable = false ∧ (s.tcu.chan c).mode = .x4 ∧ (s.tcu.chan c).scale = 1024
        ∧ (s.tcu.chan c).count = 0 ∧ (s.tcu.chan c).remainder = 0 ∧ (s.tcu.chan c).dir = .up
        ∧ (s.tcu.chan c).illegal = false ∧ (s.tcu.chan c).capture = 0 ∧ (s.tcu.chan c).capturePrev = 0)
    ∧ s.line.valid = false
    ∧ (let c := s.line.cfg
      c.dG0 = 0 ∧ c.dG1 = 0 ∧ c.dG2 = 0 ∧ c.dMK = 0 ∧ c.dSAW = 0 ∧ c.latG0 = 0 ∧ c.latG1 = 0 ∧ c.latG2 = 0
      ∧ c.pullerMode = .single ∧ c.aEnable = false ∧ c.aMode = .x4 ∧ c.aScale = 1024 ∧ c.bEnable = false ∧ c.bMode = .x4
      ∧ c.bScale = 1024 ∧ c.gapLimit = 0 ∧ c.cutTimeout = 0 ∧ c.lead = 0 ∧ c.minMark = 0 ∧ c.minGap = 0
      ∧ c.idlePolicy = .off ∧ c.markerEnables = 0)
    ∧ s.rc.run = .idle ∧ s.rc.active = 0 ∧ s.rc.billets = [] ∧ s.rc.tail = none ∧ s.rc.tailReleased = false
    ∧ s.rc.deadNote = false ∧ (∀ st : Strand, s.rc.future[st] = { nose := none, weld := none, stop := none, held := none })
    ∧ s.ts.free.length = 1024 ∧ s.ts.setAside = 0 ∧ (∀ i : Fin 1024, i.val ∈ s.ts.free ∧ s.ts.seqs[i] = 0)
    ∧ (∀ st : Strand, s.ts.tracks[st] = [])
    ∧ s.pt.free.length = 32 ∧ s.pt.setAside = 0 ∧ (∀ i : Fin 32, i.val ∈ s.pt.free ∧ s.pt.seqs[i] = 0)
    ∧ s.pt.pieces = [] ∧ s.pt.queue = [] ∧ s.pt.headMark = false
    ∧ (∀ g : Gauge, (s.iu.link g).queue = [] ∧ (s.iu.link g).blind = none ∧ ∀ st : Strand, (s.iu.link g).covered[st] = 0)
    ∧ (∀ (st : Strand) (i : Fin 12), (s.iu.trackers[st])[i] =
        { state := .within, generation := none, outRun := 0, firstOut := none, worst := none, dimEnd := none, inRun := 0,
          firstClose := none })
    ∧ s.tps.work = none ∧ s.tps.active = none ∧ s.tps.previous = none ∧ s.tps.commitCoord = none
    ∧ (∀ st : Strand, hasStrand s.tps.late st = false) ∧ (∀ i : Fin 16, s.tps.library[i] = none)
    ∧ s.tps.lineCode = none ∧ s.tps.qualityCode = none ∧ s.tps.level = .normal
    ∧ s.tps.protection = .unprotected ∧ s.tps.attempts = 5 ∧ s.tps.frozen = false ∧ s.tps.deviceFault = false
    ∧ s.cps.saw = .held ∧ s.cps.sawGo = false ∧ s.cps.plan = none ∧ s.cps.planLate = false ∧ s.cps.wait = .none
    ∧ s.cps.noPlan = .none ∧ s.cps.holdNote = false ∧ s.cps.timeout = none ∧ s.cps.cutCounter = 0
    ∧ s.cps.lastCut = none ∧ s.cps.latestCapture = none
    ∧ (∀ st : Strand, s.swm.windows[st] = .empty ∧ s.swm.lines[st].on = false ∧ s.swm.lines[st].onPoint = none
        ∧ s.swm.lines[st].isolated = false)
    ∧ s.lp.port = .ready ∧ s.lp.request = none ∧ s.lp.buffer = [] ∧ s.lp.lastError = .none ∧ s.lp.result = none
    ∧ s.lp.fault = none ∧ s.lp.alerts = { pendingSet := 0, maskSet := 0, enable := false }

/-! ### Messages and the Line Port (10) -/


/-- The bytes of a whole message are read as the command they stand for, whatever the body. The catalogue's names, 16 bytes with
spaces; each request block, its fields as section 10.6 lays them out, is read as its command, whatever bytes follow, and any shorter
one, a name the catalogue lacks and a field that names no operand as the command that is refused with RANGE. (Orders no message
carries: log 4, log 5. Codes of on and off: log 11. Widths and meaningless bits: log 40. Bytes after the fields: log 53. An index with fields
1 to 15: log 56.) -/
def Obligations.MessageFramesAreRead : Prop :=
  (∀ (o : Orders) (body : List Byte), 1 ≤ body.length →
    (body.length ≤ 240 → ofMessage o (frameOf 0x01#8 body) = some (ofRequest o body))
    ∧ (body.length ≤ 1200 → ofMessage o (frameOf 0x04#8 body) = some (.put body))
    ∧ ofMessage o (frameOf 0x02#8 []) = some .poll ∧ ofMessage o (frameOf 0x03#8 []) = some .fetch
    ∧ ofMessage o (frameOf 0x05#8 []) = some .abort ∧ ofMessage o (frameOf 0x06#8 []) = some .resetPort)
  ∧ catalogue.map ReqName.bytes =
      (["SET-LINE", "READ-LINE", "READ-CHANNELS", "START-RUN", "NO-BILLET-CHANGE", "END-RUN", "ABANDON-RUN"]
        ++ ["READ-BILLETS", "READ-POOL", "READ-INSPECTION", "EDIT-TEMPLATE", "LOAD-TEMPLATE", "STORE-TEMPLATE", "READ-TEMPLATE"]
        ++ ["READ-LIBRARY", "COMMIT-TEMPLATE", "UNLOCK", "SET-CODE", "LOCK", "FREEZE-CODES", "READ-PROTECTION"]
        ++ ["SAW-HOLD", "SAW-RELEASE", "CLEAR-SAW-FAULT", "READ-SAW", "RETIRE-PIECE", "REMOVE-CUT-SET", "READ-PIECE"]
        ++ ["LIST-ARRIVED", "READ-TRANSIT", "MARK-TEST", "READ-MARKERS", "FIND-ZONE", "READ-ZONES", "WALK-ZONES"]
        ++ ["HOLD-SPAN", "RELEASE-HOLD", "OVERRIDE", "HOLD-SPANS", "READ-FAULT", "CLEAR-FAULT", "ACK-ALERTS"]
        ++ ["RAISE-SOFT", "SET-ALERT-MASK"]).map (fun (x : String) =>
        (x.toList.map fun c => BitVec.ofNat 8 c.toNat) ++ List.replicate (16 - x.length) 0x20#8)
  ∧ (∀ (o : Orders) (block : List Byte), (∀ n ∈ catalogue, n.bytes ≠ block.take 16) →
      nameOf block = .other (block.take 16) ∧ ofRequest o block = .unknownRequestName block)
  ∧ ∀ o : Orders,
      let unknown := fun (block : List Byte) => ofRequest o block = .unknownRequestName block
      let reads := fun (n : ReqName) (fields : List Byte) (c : Instr) =>
        (∀ rest, nameOf (n.bytes ++ fields ++ rest) = n ∧ ofRequest o (n.bytes ++ fields ++ rest) = c)
        ∧ ∀ k, k < fields.length → unknown (n.bytes ++ fields.take k)
      let start : WalkStart → List Byte := fun
        | .address a => enc1 0 ++ addressBytes a
        | .continue_ q => enc1 1 ++ enc2 (q / 65536) ++ enc2 q ++ zeros 3
        | .unknown k => enc1 k ++ zeros 7
      (∀ p ∈ ([(.readLine, .readLine), (.readChannels, .readChannels), (.startRun, .startRun), (.noBilletChange, .noBilletChange), (.abandonRun, .abandonRun), (.readBillets, .readBillets), (.readPool, .readPool)]
            ++ [(.readLibrary, .readLibrary), (.commitTemplate, .commitTemplate), (.lock, .lock), (.freezeCodes, .freezeCodes), (.readProtection, .readProtection), (.sawHold, .sawHold), (.sawRelease, .sawRelease)]
            ++ [(.clearSawFault, .clearSawFault), (.readSaw, .readSaw), (.listArrived, .listArrived), (.readTransit, .readTransit), (.readMarkers, .readMarkers), (.readFault, .readFault), (.clearFault, .clearFault)] : List (ReqName × Instr)),
          reads p.1 [] p.2)
      ∧ reads .endRun [] (.endRun o.taking)
      ∧ (∀ r : LineRecord, r.wf = true → reads .setLine (lineBytes r) (.setLine r))
      ∧ (∀ n < 256, reads .readInspection (enc1 n) (.readInspection n) ∧ reads .loadTemplate (enc1 n) (.loadTemplate n)
          ∧ reads .storeTemplate (enc1 n) (.storeTemplate n) ∧ reads .readTemplate (enc1 n) (.readTemplate n)
          ∧ reads .raiseSoft (enc1 n) (.raiseSoft n))
      ∧ (∀ f < 256, ∀ i < 256, ∀ v : Int,
          (f = 16 → -2147483648 ≤ v → v ≤ 2147483647 →
            reads .editTemplate (enc1 f ++ enc1 i ++ encSigned v) (.editTemplate f i v))
          ∧ (4 ≤ f ∧ f ≤ 11 → 0 ≤ v → v ≤ 4294967295 → reads .editTemplate (enc1 f ++ enc1 i ++ encTU v) (.editTemplate f i v))
          ∧ (f = 1 ∨ f = 17 ∨ f = 18 → 0 ≤ v → v < 65536 →
            reads .editTemplate (enc1 f ++ enc1 i ++ enc2 v.toNat) (.editTemplate f i v))
          ∧ (¬ (f = 16 ∨ 4 ≤ f ∧ f ≤ 11 ∨ f = 1 ∨ f = 17 ∨ f = 18) → 0 ≤ v → v < 256 →
            reads .editTemplate (enc1 f ++ enc1 i ++ enc1 v.toNat) (.editTemplate f i v)))
      ∧ (∀ code < 256, ∀ bytes : List Byte, bytes.length = 16 → reads .unlock (enc1 code ++ bytes) (.unlock code bytes)
          ∧ ∀ action < 256, ∀ level < 256,
              reads .setCode (enc1 code ++ enc1 action ++ bytes ++ enc1 level) (.setCode code action bytes level))
      ∧ (∀ k : Key, k.slot < 65536 → reads .retirePiece (encKey k) (.retirePiece k o.free)
          ∧ reads .readPiece (enc1 0 ++ encKey k ++ zeros 4) (.readPieceByKey k)
          ∧ ∀ v < 256, reads .override (encKey k ++ enc1 v) (.overrideZone k v))
      ∧ (∀ n < 65536, reads .removeCutSet (enc2 n) (.removeCutSet n o.free)
          ∧ ∀ b < 256, reads .holdSpans (enc2 n ++ enc1 b) (.holdSpans n b))
      ∧ (∀ st < 256, ∀ a b : Address, a.wf = true → b.wf = true →
          reads .readPiece (enc1 1 ++ enc1 st ++ addressBytes a) (.readPieceByCoordinate st a)
          ∧ reads .findZone (enc1 st ++ addressBytes a) (.findZone st a)
          ∧ (∀ count < 65536, ∀ block < 256,
              reads .readZones (enc1 st ++ addressBytes a ++ enc2 count ++ enc1 block) (.readZones st a count block))
          ∧ reads .holdSpan (enc1 st ++ addressBytes a ++ addressBytes b) (.holdSpan st a b o.span)
          ∧ reads .releaseHold (enc1 st ++ addressBytes a ++ addressBytes b) (.releaseHold st a b o.span)
          ∧ (∀ w : WalkStart, w.wf = true → reads .walkZones (enc1 st ++ start w) (.walkZones st w))
          ∧ ∀ i < 256, ∀ l < 256, reads .markTest (enc1 st ++ enc1 i ++ enc1 l) (.markTest st i l))
      ∧ (∀ m : AlertSet, reads .ackAlerts (enc2 m.toNat) (.ackAlerts m)
          ∧ ∀ e, reads .setAlertMask (enc2 m.toNat ++ enc1 (if e then 0 else 1)) (.setAlertMask m e))
      ∧ (∀ n, 8192 ≤ n → n < 65536 → ∀ rest, unknown (ReqName.ackAlerts.bytes ++ enc2 n ++ rest)
          ∧ unknown (ReqName.setAlertMask.bytes ++ enc2 n ++ rest))
      ∧ ∀ n, 2 ≤ n → n < 256 → ∀ rest, unknown (ReqName.readPiece.bytes ++ enc1 n ++ rest)
          ∧ ∀ m : AlertSet, unknown (ReqName.setAlertMask.bytes ++ enc2 m.toNat ++ enc1 n ++ rest)

/-- A complete message of a kind and a body of n bytes, with the two bytes that stand for its CRC-16: a wrong CRC is answered
CHECK, then a kind that is none of the six or a body length that does not suit it CHECK, then a body above its limit FULL; and
nothing but the REPLY changes. -/
def Obligations.FailedMessagesAreAnswered : Prop :=
  ∀ (s : State) (kind : Byte) (body crc : List Byte), body.length < 65536 → crc.length = 2 →
    let head := [kind] ++ enc2 body.length ++ body
    let good := crc = enc2 (crc16 head).toNat
    let suits := (kind = 0x01#8 ∨ kind = 0x04#8) ∧ body ≠ [] ∨
      (kind = 0x02#8 ∨ kind = 0x03#8 ∨ kind = 0x05#8 ∨ kind = 0x06#8) ∧ body = []
    let limit := if kind = 0x04#8 then 1200 else 240
    (¬ good → answersOnly (.messageCheckFailure (head ++ crc)) s .check [])
    ∧ (good → ¬ suits → answersOnly (.messageCheckFailure (head ++ crc)) s .check [])
    ∧ (good → suits → limit < body.length → answersOnly (.messageCheckFailure (head ++ crc)) s .full [])

/-- A REQUEST taken in BUSY, DATA-OUT or DATA-IN is answered ABORTED, and nothing else changes.
A request whose name the catalogue lacks, or whose block is too short, is refused with RANGE; with no fault context held it
makes one, with no failing item and OVERRUN clear; with one held, that one stays and OVERRUN is set. (The name
that result record and fault context then carry is the sixteen bytes as sent, and the item is none: log 20.) -/
def Obligations.RequestsThePortCannotTake : Prop :=
  (∀ (c : Instr) (n : ReqName) (s : State), c.reqName = some n → s.lp.port ≠ .ready → answersOnly c s .aborted [])
  ∧ ∀ (s : State) (block : List Byte), s.lp.port = .ready →
    ∃ t, exec (.unknownRequestName block) s = .next t ∧ t = { s with lp := t.lp } ∧ t.lp.port = .ready
      ∧ t.lp.lastError = .range ∧ t.lp.result = some { name := nameOf block, error := .range, fields := [] }
      ∧ t.lp.buffer = s.lp.buffer ∧ t.lp.alerts = s.lp.alerts
      ∧ (s.lp.fault = none →
          t.lp.fault = some { request := nameOf block, error := .range, item := .none, done := 0, overrun := false })
      ∧ (∀ x, s.lp.fault = some x → t.lp.fault = some { x with overrun := true })

/-- A POLL completes in every port state with the answer NONE and changes nothing but the REPLY; its data is the result record in READY,
where one is held, and else nothing. Every message of the host completes, and its REPLY shows the state it leaves field by field: port
state, DEVICE-FAULT, whether a fault context is held, OVERRUN, ALERT, the global enable, last error and pending set (State.shows). A REQUEST
is answered NONE in READY, with the result record where it ends at its taking, and else ABORTED with no data; a FETCH in DATA-OUT carries
the transfer buffer, with the last mark exactly where the request ends at it (the block, then, and not the result record: log 22), and is
ABORTED elsewhere; a PUT is CHECK with an empty body, FULL above 1,200 bytes, NONE in DATA-IN, ABORTED elsewhere; an ABORT and a RESET-PORT
are NONE; and a PUT or ABORT that ends the request carries its result record. (Where spans of a put block wait, they are applied first, and
the message is answered as it then is: log 24. A PUT is answered before the spans of its own block are applied: log 61.) The REPLY byte by
byte: body, flags, pending set, port states and error codes, the frame and its CRC-16, and the result record with its sixteen bytes of name,
a name that the catalogue lacks as it was sent (log 20). -/
def Obligations.RepliesShowTheStateLeft : Prop :=
  (∀ s : State, ∃ r, exec .poll s = .next { s with lp := { s.lp with reply := some r } }
    ∧ (∀ x, s.lp.port = .ready → s.lp.result = some x → s.shows r .none false x.bytes)
    ∧ (s.lp.port ≠ .ready ∨ s.lp.result = none → s.shows r .none false []))
  ∧ (∀ (s : State) (c : Instr) (body : List Byte),
    let replies := fun (c : Instr) (answer : ErrCode) (last : State → Bool) (data : State → List Byte) =>
      ∃ t r, exec c s = .next t ∧ t.lp.reply = some r ∧ t.shows r answer (last t) (data t)
    let unmarked := fun (_ : State) => false
    let nothing := fun (_ : State) => ([] : List Byte)
    let record := fun (t : State) => match t.lp.result with | some x => x.bytes | none => []
    let recordAtEnd := fun (t : State) => if t.lp.port = .ready then record t else []
    (c.reqName.isSome = true → s.lp.port = .ready → replies c .none unmarked recordAtEnd)
    ∧ (c.reqName.isSome = true → s.lp.port ≠ .ready → replies c .aborted unmarked nothing)
    ∧ (∀ o, s.lp.port = .dataOut o → replies .fetch .none (fun t => decide (t.lp.port = .ready)) fun t => t.lp.buffer)
    ∧ ((∀ o, s.lp.port ≠ .dataOut o) → replies .fetch .aborted unmarked nothing)
    ∧ (body.length = 0 → replies (.put body) .check unmarked nothing)
    ∧ (1200 < body.length → replies (.put body) .full unmarked nothing)
    ∧ (1 ≤ body.length → body.length ≤ 1200 →
        (∀ p, s.lp.port = .dataIn p → p.waiting = [] → replies (.put body) .none unmarked recordAtEnd)
        ∧ ((∀ p, s.lp.port ≠ .dataIn p) → replies (.put body) .aborted unmarked nothing))
    ∧ (s.lp.port = .ready → replies .abort .none unmarked nothing)
    ∧ (s.lp.port ≠ .ready → s.lp.port.waiting = 0 → replies .abort .none unmarked record)
    ∧ replies .resetPort .none unmarked nothing
    ∧ (∀ p, s.lp.port = .dataIn p → p.waiting ≠ [] → c = .put body ∨ c = .abort →
        ∃ answer d, replies c answer unmarked fun _ => d))
  ∧ (∀ (s : State) (answer : ErrCode) (last : Bool) (data : List Byte), s.shows (s.replyTo answer last data) answer last data)
  ∧ (∀ r : Reply,
    let flag := fun (b : Bool) (n : Nat) => if b then n else 0
    r.body = enc1 r.answer.code ++ enc1 (match r.port with | .ready => 0 | .busy => 1 | .dataOut => 2 | .dataIn => 3)
        ++ enc1 (flag r.deviceFault 1 + flag r.lastMark 2 + flag r.contextHeld 4 + flag r.overrun 8 + flag r.alert 16 + flag r.enable 32)
        ++ enc1 r.lastError.code ++ enc2 r.pendingSet.toNat ++ enc2 r.data.length ++ r.data
    ∧ (let head := [0x81#8] ++ enc2 r.body.length ++ r.body
      r.frame = head ++ enc2 (crc16 head).toNat))
  ∧ [ErrCode.none, .aborted, .range, .notFound, .stale, .locked, .inUse, .full, .check, .deviceFault].map ErrCode.code
      = [0, 1, 2, 3, 4, 5, 6, 7, 8, 9]
  ∧ (∀ (m : AlertSet) (c : AlertCause) (i : Nat),
    ([.requestDone, .arrived, .amended, .sawFault, .poolLow, .coarse, .orphan, .encoder, .blind, .runState, .stray, .soft0, .soft1]
      : List AlertCause)[i]? = some c → hasCause m c = m.toNat.testBit i)
  ∧ (∀ bytes : List Byte,
    let bits := bytes.flatMap fun b => (List.range 8).map fun i => b.getLsbD (7 - i)
    crc16 bytes = bits.foldl (fun (c : Word16) (d : Bool) => if c.msb ≠ d then (c <<< 1) ^^^ 0x1021#16 else c <<< 1) 0xFFFF#16)
  ∧ (∀ x : ResultRecord, x.bytes = x.name.bytes ++ enc1 x.error.code ++ x.fields)
  ∧ (∀ n ∈ catalogue, n.bytes.length = 16) ∧ ∀ name : List Byte, name.length = 16 → ReqName.bytes (.other name) = name

/-- The requests that deliver one report: the report stands in the transfer buffer, the port is DATA-OUT, and nothing else changes, but that
READ-CHANNELS clears ILLEGAL of each channel after it. READ-INSPECTION reports a strand 0 to 3 and refuses any other with RANGE. What each
report holds, byte by byte: numbers, keys, flags, optional items and codes as section 10.6 encodes them (R209), the items in the order their
rule lists them. (Codes of on and off and of flags: log 11. Widths the manual leaves open: log 12. Window copies and groups of inactive
strands: log 13. The kind of the stretch, which is that of the first cut-out zone at its start, strand by strand: log 18. Order of future
entries: log 46. Absent items of READ-SAW: log 48. A stretch of an empty range in READ-SAW: log 63. Levels in READ-SAW: log 52. READ-FAULT
says in a byte of its own whether a context is held, and sends the bytes of every item as 0 while none is: log 57.) -/
def Obligations.SnapshotsAreDelivered : Prop :=
  (∀ s : State, s.lp.port = .ready →
    deliversAs .readLine s s .readLine s.lineReport ∧ deliversAs .readBillets s s .readBillets s.billetsReport
    ∧ deliversAs .readPool s s .readPool s.poolReport ∧ deliversAs .readLibrary s s .readLibrary s.libraryReport
    ∧ deliversAs .readProtection s s .readProtection s.protectionReport ∧ deliversAs .readSaw s s .readSaw s.sawReport
    ∧ deliversAs .readTransit s s .readTransit s.transitReport ∧ deliversAs .readMarkers s s .readMarkers s.markersReport
    ∧ deliversAs .readFault s s .readFault (encFault s.lp.fault)
    ∧ deliversAs .readChannels s
        { s with tcu := { s.tcu with chA := { s.tcu.chA with illegal := false }, chB := { s.tcu.chB with illegal := false } } }
        .readChannels s.channelsReport
    ∧ (∀ st : Strand, deliversAs (.readInspection st.val) s s .readInspection (s.inspectionReport st))
    ∧ (∀ n, 4 ≤ n → refusedAs (.readInspection n) s .readInspection .range .none))
  ∧ ((∀ n, enc1 n = [BitVec.ofNat 8 n]) ∧ (∀ n, enc2 n = [BitVec.ofNat 8 (n / 256), BitVec.ofNat 8 n])
    ∧ (∀ n : Nat, n ≤ 4294967295 →
        encTU (n : Int) = [BitVec.ofNat 8 (n / 16777216), BitVec.ofNat 8 (n / 65536), BitVec.ofNat 8 (n / 256), BitVec.ofNat 8 n])
    ∧ (∀ w : BitVec 32, encWord w = encTU (w.toNat : Int)) ∧ (∀ k : Key, encKey k = enc2 k.slot ++ enc2 k.seq.toNat)
    ∧ (∀ b : Bool, encFlag b = enc1 (if b then 1 else 0))
    ∧ (∀ (n : Nat) (e : Nat → List Byte), encOpt n e none = enc1 0 ++ List.replicate n 0#8 ∧ ∀ x, encOpt n e (some x) = enc1 1 ++ e x)
    ∧ encOptTU none = enc1 0 ++ List.replicate 4 0#8 ∧ ∀ x : Coord, encOptTU (some x) = enc1 1 ++ encTU (x : Int))
  ∧ ([PullerMode.single, .double].map PullerMode.code = [0, 1] ∧ [ChanMode.x1, .x2, .x4, .countDir].map ChanMode.code = [0, 1, 2, 3]
    ∧ [IdlePolicy.off, .retain].map IdlePolicy.code = [0, 1] ∧ [Chan.a, .b].map Chan.code = [0, 1]
    ∧ [Dir.up, .down].map Dir.code = [0, 1] ∧ [RunState.idle, .armed, .running, .dead, .draining].map RunState.code = [0, 1, 2, 3, 4]
    ∧ [TrackerState.within, .out].map TrackerState.code = [0, 1]
    ∧ [Protection.unprotected, .locked, .opened].map Protection.code = [0, 1, 2] ∧ [Level.normal, .strict].map Level.code = [0, 1]
    ∧ [SawState.ready, .planned, .go, .return_, .held, .fault].map SawState.code = [0, 1, 2, 3, 4, 5]
    ∧ [WaitReason.none, .saw, .pieces, .pool].map WaitReason.code = [0, 1, 2, 3]
    ∧ [NoPlanReason.none, .tail, .count].map NoPlanReason.code = [0, 1, 2]
    ∧ [some Cond.tailBand, some .nose, some .weld, some .stop, some .dim, some .surf, some .held, some .gap, none].map kindCode
        = [0, 1, 2, 3, 4, 5, 6, 7, 8]
    ∧ [Verdict.prime, .partialV, .review, .scrap].map Verdict.code = [0, 1, 2, 3]
    ∧ [ErrCode.none, .aborted, .range, .notFound, .stale, .locked, .inUse, .full, .check, .deviceFault].map ErrCode.code
        = [0, 1, 2, 3, 4, 5, 6, 7, 8, 9])
  ∧ (∀ (s : State) (x : Coord),
    let cuts := fun (z : Zone) (c : Cond) => hasCond z.conds c = true ∧
      (c = .nose ∨ c = .tailBand ∨ c = .weld ∨ c = .stop ∨ hasCond s.activeTemplate.cutOut c = true)
    let here := fun (z : Zone) => (∃ c, cuts z c) ∧ z.start ≤ x ∧ ∀ e, z.stop? = some e → x < e
    let zones := s.activeStrands.flatMap s.track
    ((∀ z ∈ zones, ¬ here z) → s.kindAt x = none)
    ∧ ∀ l z r, zones = l ++ z :: r → here z → (∀ y ∈ l, ¬ here y) →
        s.kindAt x = ([.tailBand, .nose, .weld, .stop, .dim, .surf, .held, .gap] : List Cond).find? (hasCond z.conds))
  ∧ ∀ s : State,
    let tu := fun (n : Nat) => encTU (n : Int)
    let on := fun (b : Bool) => enc1 (if b then 0 else 1)
    let c := s.line.cfg
    s.lineReport = tu c.dG0 ++ tu c.dG1 ++ tu c.dG2 ++ tu c.dMK ++ tu c.dSAW ++ tu c.latG0 ++ tu c.latG1 ++ tu c.latG2
        ++ enc1 c.pullerMode.code ++ on c.aEnable ++ enc1 c.aMode.code ++ enc2 c.aScale ++ on c.bEnable ++ enc1 c.bMode.code
        ++ enc2 c.bScale ++ tu c.gapLimit ++ enc2 c.cutTimeout ++ tu c.lead ++ tu c.minMark ++ tu c.minGap ++ enc1 c.idlePolicy.code
        ++ enc1 c.markerEnables.toNat ++ enc1 (if s.line.valid then 0 else 1)
    ∧ (let chan := fun (x : Channel) => on x.enable ++ enc1 x.mode.code ++ enc2 x.scale ++ encWord x.count ++ enc2 x.remainder
          ++ enc1 x.dir.code ++ encFlag x.illegal ++ encWord x.capture ++ encWord x.capturePrev
      s.channelsReport = enc1 c.pullerMode.code ++ enc1 s.tcu.puller.code ++ tu s.tcu.L ++ tu s.tcu.Lhw ++ tu s.tcu.Lbase
        ++ encWord s.tcu.refCount ++ chan s.tcu.chA ++ chan s.tcu.chB)
    ∧ (let entry := fun (k : Nat) (o : Option Coord) => match o with | some e => enc1 k ++ tu e | none => []
      let live := fun (f : FutureList) => f.nose.toList.length + f.weld.toList.length + f.stop.toList.length + f.held.toList.length
      let strand := fun (st : Strand) =>
        let f := s.rc.future[st]
        if st.val < s.rc.active then tu s.ts.first[st] ++ enc1 (live f) ++ entry 0 f.nose ++ entry 1 f.weld ++ entry 2 f.stop
          ++ entry 3 f.held
        else List.replicate 5 0#8
      s.billetsReport = enc1 s.rc.run.code ++ enc1 s.rc.active ++ encFlag s.rc.deadNote ++ encOptTU s.rc.tail
        ++ encFlag s.rc.tailReleased ++ strand 0 ++ strand 1 ++ strand 2 ++ strand 3 ++ enc1 s.rc.billets.length
        ++ s.rc.billets.flatMap fun b => enc2 b.ordinal ++ tu b.start ++ encOptTU b.stop ++ encFlag b.noChangeStops)
    ∧ s.poolReport = enc2 s.ts.free.length ++ enc1 s.ts.setAside ++ enc2 (s.ts.free.length - s.ts.setAside)
        ++ enc2 (s.track 0).length ++ enc2 (s.track 1).length ++ enc2 (s.track 2).length ++ enc2 (s.track 3).length
        ++ enc2 (s.pt.pieces.map fun q => q.zones.length).sum
    ∧ (∀ st : Strand,
        let active := st.val < s.rc.active
        let link := fun (l : Link) => enc1 l.queue.length ++ encFlag l.blind.isSome
          ++ encOptTU (match l.blind with | some b => if active then b[st] else none | none => none)
        let covered := fun (l : Link) => encOptTU (if active then some l.covered[st] else none)
        let tracker := fun (t : Tracker) => enc1 t.state.code ++ encOpt 1 enc1 t.generation ++ enc1 t.outRun ++ encOptTU t.firstOut
          ++ encOpt 8 (fun (w : Worst) => encSigned w.dev ++ tu w.loc) t.worst ++ encOptTU t.dimEnd ++ enc1 t.inRun
          ++ encOptTU t.firstClose
        s.inspectionReport st = link s.iu.g0 ++ link s.iu.g1 ++ link s.iu.g2 ++ covered s.iu.g0 ++ covered s.iu.g1 ++ covered s.iu.g2
          ++ (s.iu.trackers[st]).toList.flatMap tracker
          ++ encOpt 1 enc1 (s.tps.previous.map fun p =>
              ((s.iu.g0.queue ++ s.iu.g1.queue ++ s.iu.g2.queue).filter fun r => r.generation == some p.generation).length))
    ∧ (let slot := fun (o : Option Template) => enc1 (if o.isSome then 0 else 1) ++ encOpt 2 enc2 (o.map (·.dieNumber))
          ++ encOpt 2 enc2 (o.map (·.check.toNat))
      s.libraryReport = s.tps.library.toList.flatMap slot ++ encFlag s.tps.deviceFault)
    ∧ s.protectionReport = encFlag s.tps.lineCode.isSome ++ enc1 s.tps.protection.code ++ enc1 s.tps.level.code
        ++ enc1 s.tps.attempts ++ encFlag s.tps.frozen ++ encFlag s.tps.qualityCode.isSome ++ encFlag s.tps.deviceFault
    ∧ (let bare := s.rc.active = 0 ∨ ∀ st : Strand, st.val < s.rc.active → s.track st = []
      let stretch := fun (r : Stretch) => tu r.z0 ++ encOptTU r.z1 ++ enc1 (kindCode (s.kindAt r.z0))
      ∃ head : Option Coord, (bare → head = none) ∧ (¬ bare → head = some s.ts.first[0])
        ∧ s.sawReport = enc1 s.cps.saw.code ++ encFlag (decide (s.cps.saw = .go)) ++ encFlag s.pins.sawReady ++ encFlag s.cps.holdNote
          ++ encOptTU head ++ encOptTU s.cps.plan ++ encFlag s.cps.planLate
          ++ encOpt 4 (fun (p : Coord) => encTU ((p : Int) - (c.lead : Int))) s.cps.plan ++ enc1 s.cps.wait.code
          ++ enc1 s.cps.noPlan.code ++ encOpt 10 stretch s.earliest ++ enc1 s.ts.setAside ++ enc1 s.pt.setAside
          ++ encOpt 2 enc2 s.cps.timeout ++ enc2 s.cps.cutCounter
          ++ encOpt 6 (fun (x : Coord × Nat) => tu x.1 ++ enc2 x.2) s.cps.lastCut ++ encOptTU s.cps.latestCapture)
    ∧ (let count := fun (f : Piece → Bool) => enc1 (s.pt.pieces.filter f).length
      let transit := fun (n : Nat) =>
        let set := s.pt.pieces.filter fun q => q.cutNumber == n
        let verdict := fun (st : Strand) => enc1 (match set.find? (·.strand == st) with | some q => q.verdict.code | none => 0)
        enc2 n ++ (match set with | q :: _ => tu q.head ++ tu q.tail | [] => List.replicate 8 0#8) ++ enc1 set.length
          ++ verdict 0 ++ verdict 1 ++ verdict 2 ++ verdict 3
      s.transitReport = enc1 s.pt.queue.length ++ s.pt.queue.flatMap transit ++ encFlag s.pt.headMark ++ enc1 s.pt.free.length
        ++ enc1 s.pt.setAside ++ enc1 (s.pt.free.length - s.pt.setAside) ++ count (fun q => q.state == .transit)
        ++ count (fun q => q.state == .arrived) ++ count (fun q => q.state == .arrived && q.amended))
    ∧ (let window := fun (w : Window) => match w with
        | .valid z n => enc1 0 ++ enc1 1 ++ encZone z z.start ++ encOptTU (n.map (·.start)) ++ encOpt 4 encKey (n.map (·.key))
            ++ encOpt 1 encFlag (n.map (·.marked))
        | .lapsed => enc1 1 ++ List.replicate 85 0#8
        | .empty => enc1 2 ++ List.replicate 85 0#8
      let strand := fun (st : Strand) =>
        let l := s.swm.lines[st]
        if st.val < s.rc.active then window s.swm.windows[st] ++ encOptTU s.markerPoint ++ on l.on ++ encOptTU l.onPoint
          ++ encFlag l.isolated ++ encFlag (hasStrand c.markerEnables st)
        else List.replicate 99 0#8
      s.markersReport = strand 0 ++ strand 1 ++ strand 2 ++ strand 3
        ++ encOpt 1 (fun (g : Governing) => enc1 g.template.markSet.toNat) s.tps.active ++ tu c.minMark ++ tu c.minGap
        ++ enc1 c.idlePolicy.code)
    ∧ (let item : FaultItem → List Byte := fun
        | .none => enc1 0 ++ enc1 0 ++ List.replicate 4 0#8
        | .key k => enc1 1 ++ enc1 1 ++ encKey k
        | .coordinate x => enc1 2 ++ enc1 1 ++ tu x
        | .span i => enc1 3 ++ enc1 1 ++ enc2 i ++ enc2 0
        | .field n i => enc1 4 ++ enc1 1 ++ enc1 n ++ enc1 i ++ enc2 0
        | .slot n => enc1 5 ++ enc1 1 ++ enc1 n ++ enc1 0 ++ enc2 0
        | .cut n => enc1 6 ++ enc1 1 ++ enc2 n ++ enc2 0
      encFault none = List.replicate 27 0#8
      ∧ ∀ x : FaultContext, encFault (some x) = enc1 1 ++ x.request.bytes ++ enc1 x.error.code ++ item x.item ++ enc2 x.done
          ++ encFlag x.overrun)

/-- A FETCH of a snapshot delivers the block in the transfer buffer with the last mark and ends the request positively, with
REQUEST-DONE; nothing outside the port changes.
A FETCH of LIST-ARRIVED: the block holds the count of ARRIVED pieces and the records of the next of them, at most 8, by cut number and
then strand, from the one after the last delivered; fewer than 8 records mark it last and end the request positively with
REQUEST-DONE, else the port stays DATA-OUT, continuing after the last record. (The REPLY to the FETCH that ends a request carries the
block and not the result record: log 22.) -/
def Obligations.FetchDeliversSnapshotsAndArrivedPieces : Prop :=
  (∀ (s : State) (n : ReqName), s.lp.port = .dataOut (.snapshot n) →
    ∃ t, exec .fetch s = .next t
      ∧ t = { s with lp := { s.lp.endedLater n .none [] .none 0 with reply := t.lp.reply } }
      ∧ t.shown .none true s.lp.buffer)
  ∧ ∀ (s : State) (last : Option (Nat × Nat)) (d : Nat), s.lp.port = .dataOut (.arrived last d) →
    let ps := s.pt.arrivedBlock last
    let place := fun (p : Piece) => (p.cutNumber, p.strand.val)
    let below := fun (a b : Nat × Nat) => a.1 < b.1 ∨ a.1 = b.1 ∧ a.2 < b.2
    let due := fun (p : Piece) => p ∈ s.pt.pieces ∧ p.state = .arrived ∧ ∀ l, last = some l → below l (place p)
    ∃ t, exec .fetch s = .next t ∧ t = { s with lp := t.lp } ∧ ps.length ≤ 8
      ∧ (∀ p ∈ ps, p ∈ s.pt.pieces ∧ p.state = .arrived)
      ∧ (∀ p ∈ ps, due p) ∧ ps.Pairwise (fun p q => ¬ below (place q) (place p))
      ∧ (∀ q, due q → q ∈ ps ∨ ps.length = 8 ∧ ∀ p ∈ ps, ¬ below (place q) (place p))
      ∧ t.lp.buffer = enc1 (s.pt.pieces.filter fun q => q.state == .arrived).length ++ ps.flatMap encPiece
      ∧ t.lp.buffer = enc1 s.pt.arrived.length ++ ps.flatMap encPiece ∧ t.shown .none (decide (ps.length < 8)) t.lp.buffer
      ∧ (ps.length < 8 → t.lp.port = .ready ∧ t.lp.lastError = .none
          ∧ hasCause t.lp.alerts.pendingSet .requestDone = true)
      ∧ (ps.length = 8 → t.lp.port = .dataOut (.arrived (ps.getLast?.map place) (d + 8)))

/-- A FETCH of READ-ZONES: the REPLY carries the block assembled; where no end of the walk is reached the block holds BLOCK
records, is not marked last, and the port stays DATA-OUT at the new continuation point; else it is marked last, holds at most
BLOCK records, and the request ends with REQUEST-DONE, with NOT-FOUND and the coordinate of the hole in the fault context where the walk
meets one. The block holds the records of the zones of a walk up from the continuation point, each looked up where the one before ends
and shown from the greater of its start and that coordinate; the walk then stands at the last zone's end. The end is reached positively
at COUNT, at an open zone, and in no zone at or above the end of the metal; with NOT-FOUND in no zone below it; and nowhere else.
(The REPLY to the FETCH that ends it carries the block and not the result record: log 22. Where a walk ends: log 25.) -/
def Obligations.FetchAssemblesZoneBlock : Prop :=
  ∀ (s : State) (r : ZoneRead), s.lp.port = .dataOut (.zones r) →
    let a := s.assemble r.strand r.count r.block r.q r.delivered
    ∃ t, exec .fetch s = .next t ∧ t = { s with lp := t.lp } ∧ t.lp.buffer = s.zoneBlock a.records
      ∧ t.shown .none a.ends.isSome t.lp.buffer ∧ a.records.length ≤ r.block
      ∧ a.delivered = r.delivered + a.records.length
      ∧ (∃ zs : List (Zone × Coord), s.walks r.strand r.q zs a.q ∧ a.records = zs.map (fun p => encZone p.1 p.2)
          ∧ (let opened := ∃ p ∈ zs, p.1.isOpen = true
            let lost := s.walkZone r.strand a.q = none
            (a.ends = some .none ↔ r.count ≤ a.delivered ∨ opened ∨ lost ∧ s.metalEnd r.strand ≤ a.q)
            ∧ (a.ends = some .notFound ↔ a.delivered < r.count ∧ ¬ opened ∧ lost ∧ a.q < s.metalEnd r.strand)
            ∧ (a.ends = none ↔ a.delivered < r.count ∧ ¬ opened ∧ ¬ lost)))
      ∧ (a.ends = none → a.records.length = r.block ∧ t.lp.lastError = s.lp.lastError ∧ t.lp.alerts = s.lp.alerts
          ∧ t.lp.port = .dataOut (.zones { r with q := a.q, delivered := a.delivered }))
      ∧ (∀ e, a.ends = some e → t.lp.port = .ready ∧ t.lp.lastError = e
          ∧ t.lp.result = some { name := .readZones, error := e, fields := [] }
          ∧ t.lp.fault = faultAfter s.lp.fault .readZones e (if e = .notFound then .coordinate a.q else .none)
              (if e = .none then 0 else a.delivered)
          ∧ hasCause t.lp.alerts.pendingSet .requestDone = true)

/-- A FETCH outside DATA-OUT and a PUT outside DATA-IN are answered ABORTED and change nothing; a PUT with an empty body is
answered CHECK and one above 1,200 bytes FULL, in every port state. -/
def Obligations.FetchAndPutOutOfPlace : Prop :=
  ∀ (s : State) (body : List Byte),
    ((∀ c, s.lp.port ≠ .dataOut c) → answersOnly .fetch s .aborted [])
    ∧ ((∀ p, s.lp.port ≠ .dataIn p) → 1 ≤ body.length → body.length ≤ 1200 → answersOnly (.put body) s .aborted [])
    ∧ (body.length = 0 → answersOnly (.put body) s .check [])
    ∧ (1200 < body.length → answersOnly (.put body) s .full [])

/-- A PUT in DATA-IN, the block before applied: a block of exactly BLOCK span records, or of those that remain, is taken, and its spans
wait, the PUT answered before any of them is applied (log 61); a block of any other size ends the request with RANGE, the index of its first
span as failing item. (The block put stands in the transfer buffer: log 34.) Where spans of the block before still wait, they are applied
first, each as its own event: the PUT does what it does once the next of them has been applied (log 24). A span record is the strand byte
and two addresses of seven bytes each, and the records of a block are read as its spans, in their order. -/
def Obligations.PutTakesBlockOfRightShape : Prop :=
  (∀ spans : List Span, (∀ sp ∈ spans, sp.strand < 256 ∧ sp.first.wf = true ∧ sp.second.wf = true) →
    readSpans spans.length (spans.flatMap fun sp => enc1 sp.strand ++ addressBytes sp.first ++ addressBytes sp.second) = spans) ∧
  (∀ (s u : State) (p : SpanPut) (body : List Byte), s.lp.port = .dataIn p → p.waiting ≠ [] → 1 ≤ body.length → body.length ≤ 1200 →
    exec (.holdSpansSpanApply .claimFirst) s = .next u → exec (.put body) s = exec (.put body) u) ∧
  ∀ (s : State) (p : SpanPut) (body : List Byte), s.lp.port = .dataIn p → p.waiting = [] → 1 ≤ body.length →
    body.length ≤ 1200 →
    let due := min p.block (p.count - p.next)
    (body.length = 15 * due → ∃ t, exec (.put body) s = .next t
      ∧ t = { s with lp := { s.lp with port := .dataIn { p with waiting := readSpans due body }, buffer := body,
                                       reply := t.lp.reply } }
      ∧ (readSpans due body).length = due ∧ t.shown .none false [])
    ∧ (body.length ≠ 15 * due → ∃ t, exec (.put body) s = .next t
      ∧ t = { s with lp := { s.lp.endedLater .holdSpans .range [] (.span p.next) 0 with reply := t.lp.reply } }
      ∧ t.shown .none false (ResultRecord.bytes { name := .holdSpans, error := .range, fields := [] }))

/-- ABORT in READY changes nothing; in any other state, with no span waiting, it ends the request in progress with ABORTED and
REQUEST-DONE, with the counts its rule names, and empties the transfer buffer; nothing outside the port changes. Where spans of a put block
still wait, they are applied first (log 24). -/
def Obligations.AbortEndsRequest : Prop :=
  (∀ (s u : State) (p : SpanPut), s.lp.port = .dataIn p → p.waiting ≠ [] →
    exec (.holdSpansSpanApply .claimFirst) s = .next u → exec .abort s = exec .abort u) ∧
  ∀ s : State,
    (s.lp.port = .ready → answersOnly .abort s .none [])
    ∧ (∀ n item d, s.lp.port.waiting = 0 → s.lp.port.aborts = some (n, item, d) → ∃ t, exec .abort s = .next t
      ∧ t = { s with lp := { s.lp.endedLater n .aborted [] item d with buffer := [], reply := t.lp.reply } }
      ∧ t.shown .none false (ResultRecord.bytes { name := n, error := .aborted, fields := [] }))
    ∧ (∀ op, (PortState.busy op).aborts = some (op.name, .none, 0))
    ∧ (∀ n, (PortState.dataOut (.snapshot n)).aborts = some (n, .none, 0))
    ∧ (∀ r, (PortState.dataOut (.zones r)).aborts = some (.readZones, .none, r.delivered))
    ∧ (∀ l d, (PortState.dataOut (.arrived l d)).aborts = some (.listArrived, .none, d))
    ∧ (∀ p, (PortState.dataIn p).aborts = some (.holdSpans, .span p.next, p.next))

/-- RESET-PORT, with no span waiting: READY, buffer and result record empty, last error NONE, no fault context, REQUEST-DONE not
pending; every other cause, the mask, the enable and every other block as they were. Where spans of a put block still wait, they are applied
first (log 24). -/
def Obligations.ResetPortClearsThePort : Prop :=
  (∀ (s u : State) (p : SpanPut), s.lp.port = .dataIn p → p.waiting ≠ [] →
    exec (.holdSpansSpanApply .claimFirst) s = .next u → exec .resetPort s = exec .resetPort u) ∧
  ∀ s : State, s.lp.port.waiting = 0 →
    ∃ t, exec .resetPort s = .next t
      ∧ t = { s with lp := { s.lp with
                port := .ready, request := none, buffer := [], result := none, lastError := .none, fault := none,
                alerts := { s.lp.alerts with pendingSet := s.lp.alerts.pendingSet &&& ~~~ causeMask .requestDone },
                reply := t.lp.reply } }
      ∧ t.shown .none false []

/-- ACK-ALERTS takes the causes it names out of the pending set and answers with what is left; RAISE-SOFT puts SOFT0 or SOFT1 in
the pending set (named by their places among the causes, log 21) and refuses any other name; SET-ALERT-MASK replaces the mask set
and the global enable. Nothing else changes, and none of them raises REQUEST-DONE.
ALERT is asserted exactly when the global enable is set and some pending cause is unmasked. -/
def Obligations.AlertRequestsAndLine : Prop :=
  (∀ s : State, s.lp.port = .ready →
    (∀ m, endsAs (.ackAlerts m) s
      { s with lp := { s.lp with alerts := { s.lp.alerts with pendingSet := s.lp.alerts.pendingSet &&& ~~~ m } } }
      .ackAlerts .none (enc2 (s.lp.alerts.pendingSet &&& ~~~ m).toNat) .none)
    ∧ endsAs (.raiseSoft 11) s (s.withCause .soft0) .raiseSoft .none [] .none
    ∧ endsAs (.raiseSoft 12) s (s.withCause .soft1) .raiseSoft .none [] .none
    ∧ (∀ n, n ≠ 11 → n ≠ 12 → refusedAs (.raiseSoft n) s .raiseSoft .range .none)
    ∧ (∀ m e, endsAs (.setAlertMask m e) s
        { s with lp := { s.lp with alerts := { s.lp.alerts with maskSet := m, enable := e } } } .setAlertMask .none [] .none)
    ∧ endsAs .clearFault s { s with lp := { s.lp with fault := none } } .clearFault .none [] .none)
  ∧ ∀ a : Alerts, a.line = true ↔
    a.enable = true ∧ ∃ c : AlertCause, hasCause a.pendingSet c = true ∧ hasCause a.maskSet c = false


/-! ### Travel and the line configuration (01) -/

/-- The checks of SET-LINE on the fields of the record, named values by their codes; the field named is the lowest that fails,
by its own number. (Codes of on and off: log 11.) -/
def Obligations.LineRecordChecks : Prop :=
  ∀ r : LineRecord,
    (r.firstBad = none ↔
      (1 ≤ r.dG0 ∧ r.dG0 < r.dG1 ∧ r.dG1 < r.dG2 ∧ r.dG2 < r.dMK ∧ r.dMK < r.dSAW ∧ r.dSAW ≤ 2000000)
      ∧ r.latG0 ≤ 50000 ∧ r.latG1 ≤ 50000 ∧ r.latG2 ≤ 50000 ∧ r.pullerMode ≤ 1
      ∧ r.aEnable = 0 ∧ r.aMode ≤ 3 ∧ 1 ≤ r.aScale ∧ r.aScale ≤ 65535
      ∧ r.bEnable ≤ 1 ∧ (r.pullerMode = 1 → r.bEnable = 0) ∧ r.bMode ≤ 3 ∧ 1 ≤ r.bScale ∧ r.bScale ≤ 65535
      ∧ 100 ≤ r.gapLimit ∧ r.gapLimit ≤ 1000000 ∧ 50 ≤ r.cutTimeout ∧ r.cutTimeout ≤ 5000 ∧ r.lead ≤ 100000
      ∧ r.minMark ≤ 50000 ∧ r.minGap ≤ 50000 ∧ r.idlePolicy ≤ 1 ∧ r.markerEnables ≤ 15)
    ∧ (∀ n, r.firstBad = some n → (n, false) ∈ r.passes ∧ ∀ m, (m, false) ∈ r.passes → n ≤ m)
    ∧ (let holds : Nat → Prop := fun
        | 1 => 1 ≤ r.dG0 ∧ r.dG0 ≤ 2000000
        | 2 => 1 ≤ r.dG1 ∧ r.dG1 ≤ 2000000 ∧ r.dG0 < r.dG1
        | 3 => 1 ≤ r.dG2 ∧ r.dG2 ≤ 2000000 ∧ r.dG1 < r.dG2
        | 4 => 1 ≤ r.dMK ∧ r.dMK ≤ 2000000 ∧ r.dG2 < r.dMK
        | 5 => 1 ≤ r.dSAW ∧ r.dSAW ≤ 2000000 ∧ r.dMK < r.dSAW
        | 6 => r.latG0 ≤ 50000
        | 7 => r.latG1 ≤ 50000
        | 8 => r.latG2 ≤ 50000
        | 9 => r.pullerMode ≤ 1
        | 10 => r.aEnable = 0
        | 11 => r.aMode ≤ 3
        | 12 => 1 ≤ r.aScale ∧ r.aScale ≤ 65535
        | 13 => r.bEnable ≤ 1 ∧ (r.pullerMode = 1 → r.bEnable = 0)
        | 14 => r.bMode ≤ 3
        | 15 => 1 ≤ r.bScale ∧ r.bScale ≤ 65535
        | 16 => 100 ≤ r.gapLimit ∧ r.gapLimit ≤ 1000000
        | 17 => 50 ≤ r.cutTimeout ∧ r.cutTimeout ≤ 5000
        | 18 => r.lead ≤ 100000
        | 19 => r.minMark ≤ 50000
        | 20 => r.minGap ≤ 50000
        | 21 => r.idlePolicy ≤ 1
        | 22 => r.markerEnables ≤ 15
        | _ => True
      ∀ n, r.firstBad = some n ↔ ¬ holds n ∧ ∀ m, m < n → holds m)

/-- SET-LINE: refused with ABORTED outside IDLE and with RANGE on a field that fails its check; else it replaces every field, makes
the configuration valid, and re-initialises the travel counter with the present levels of the phases; marker lines that are neither
isolated nor retained go OFF; nothing else changes. Each field of the record lands in its own field of the configuration, a named value
by its code. (Codes of on and off: log 11. That a channel left disabled takes the present levels as well is the model's
choice, log 45.) -/
def Obligations.SetLineTakesWholeRecord : Prop :=
  ∀ (s : State) (r : LineRecord), s.lp.port = .ready →
    (s.rc.run ≠ .idle → refusedAs (.setLine r) s .setLine .aborted .none)
    ∧ (∀ n, s.rc.run = .idle → r.firstBad = some n → refusedAs (.setLine r) s .setLine .range (.field n 0))
    ∧ (s.rc.run = .idle → r.firstBad = none →
        let c := r.config
        let chan := fun (enable : Bool) (mode : ChanMode) (scale : Nat) (last : Phases) =>
          ({ enable := enable, mode := mode, scale := scale, count := 0, remainder := 0, dir := .up, illegal := false,
             capture := 0, capturePrev := 0, last := last } : Channel)
        ∃ ls : Vector MarkLine 4,
          endsAs (.setLine r) s
            { s with line := { valid := true, cfg := c },
                     tcu := { chA := chan c.aEnable c.aMode c.aScale s.pins.phasesA,
                              chB := chan c.bEnable c.bMode c.bScale s.pins.phasesB,
                              puller := .a, L := 0, Lhw := 0, Lbase := 0, refCount := 0 },
                     swm := { s.swm with lines := ls } } .setLine .none [] .none
          ∧ (∀ st : Strand, ls[st] = (s.swm.lines[st]).atRest c s.rc.active st)
          ∧ (let mode := fun (n : Nat) (m : ChanMode) =>
                n = 0 ∧ m = .x1 ∨ n = 1 ∧ m = .x2 ∨ n = 2 ∧ m = .x4 ∨ n = 3 ∧ m = .countDir
            c.dG0 = r.dG0 ∧ c.dG1 = r.dG1 ∧ c.dG2 = r.dG2 ∧ c.dMK = r.dMK ∧ c.dSAW = r.dSAW
            ∧ c.latG0 = r.latG0 ∧ c.latG1 = r.latG1 ∧ c.latG2 = r.latG2
            ∧ (r.pullerMode = 0 ∧ c.pullerMode = .single ∨ r.pullerMode = 1 ∧ c.pullerMode = .double)
            ∧ r.aEnable = 0 ∧ c.aEnable = true ∧ mode r.aMode c.aMode ∧ c.aScale = r.aScale
            ∧ (r.bEnable = 0 ∧ c.bEnable = true ∨ r.bEnable = 1 ∧ c.bEnable = false) ∧ mode r.bMode c.bMode ∧ c.bScale = r.bScale
            ∧ c.gapLimit = r.gapLimit ∧ c.cutTimeout = r.cutTimeout ∧ c.lead = r.lead ∧ c.minMark = r.minMark ∧ c.minGap = r.minGap
            ∧ (r.idlePolicy = 0 ∧ c.idlePolicy = .off ∨ r.idlePolicy = 1 ∧ c.idlePolicy = .retain)
            ∧ ∀ st : Strand, hasStrand c.markerEnables st = r.markerEnables.testBit st.val))

/-- What a sample is, mode by mode: in the quadrature modes a change of both phases is illegal; X4 counts every other change, up
along (0,0), (1,0), (1,1), (0,1), (0,0); X2 counts changes of phase 1; X1 counts (0,0) to (1,0) and back; COUNT-DIR counts rising
edges of phase 1, up with phase 2 low.
A sample that counts nothing: a disabled channel ignores it; at an enabled one it becomes the last phases, and an illegal one
sets ILLEGAL and raises ENCODER; nothing else changes. -/
def Obligations.SamplesAreDecodedByMode : Prop :=
  (∀ last new : Phases,
    (∀ m : ChanMode, last = new → decodePhases m last new = .nothing)
    ∧ (∀ m : ChanMode, m ≠ .countDir → last.p1 ≠ new.p1 → last.p2 ≠ new.p2 → decodePhases m last new = .illegal)
    ∧ (last.p1 ≠ new.p1 → last.p2 = new.p2 →
        decodePhases .x4 last new = .step (if new.p1 ≠ new.p2 then .up else .down)
        ∧ decodePhases .x2 last new = .step (if new.p1 ≠ new.p2 then .up else .down)
        ∧ decodePhases .x1 last new = (if new.p2 = true then .nothing else .step (if new.p1 = true then .up else .down)))
    ∧ (last.p1 = new.p1 → last.p2 ≠ new.p2 →
        decodePhases .x4 last new = .step (if new.p1 = new.p2 then .up else .down)
        ∧ decodePhases .x2 last new = .nothing ∧ decodePhases .x1 last new = .nothing)
    ∧ decodePhases .countDir last new =
        (if last.p1 = false ∧ new.p1 = true then .step (if new.p2 = false then .up else .down) else .nothing))
  ∧ ∀ (s : State) (ch : Chan) (p1 p2 : Bool),
    let c := s.tcu.chan ch
    let x : Phases := { p1 := p1, p2 := p2 }
    (c.enable = false → exec (.phaseSample ch p1 p2) s = .next { s with pins := s.pins.set ch x })
    ∧ (c.enable = true → decodePhases c.mode c.last x = .nothing → exec (.phaseSample ch p1 p2) s =
        .next { s with pins := s.pins.set ch x, tcu := s.tcu.onChan ch fun _ => { c with last := x } })
    ∧ (c.enable = true → decodePhases c.mode c.last x = .illegal → exec (.phaseSample ch p1 p2) s =
        .next ({ s with pins := s.pins.set ch x,
                        tcu := s.tcu.onChan ch fun _ => { c with last := x, illegal := true } }.withCause .encoder))

/-- The remainder loses no travel: a count step of any scale leaves it below 1,024, gives at most 64 TU, and what it gives and
leaves together is what went in. -/
def Obligations.ConversionLosesNoTravel : Prop :=
  ∀ scale rem : Nat, 1 ≤ scale → scale ≤ 65535 → rem < 1024 →
    (let c := convert .up scale rem
     c.1 < 1024 ∧ c.2 ≤ 64 ∧ c.1 + 1024 * c.2 = rem + scale)
    ∧ (let c := convert .down scale rem
       c.1 < 1024 ∧ c.2 ≤ 64 ∧ c.1 + scale = rem + 1024 * c.2)

/-- A count step: count, DIRECTION and remainder of the channel; L and L_hw where it is the strand puller, with the re-base where a
TU step is dropped at an end of the range of L. A change of L is handed to the four blocks, each of which keeps the L it last took
while an event waits for it (log 3). Nothing else changes. -/
def Obligations.CountStepMovesChannelAndLine : Prop :=
  ∀ (s : State) (ch : Chan) (p1 p2 : Bool) (d : Dir),
    let c := s.tcu.chan ch
    let x : Phases := { p1 := p1, p2 := p2 }
    let n := convert d c.scale c.remainder
    let count := (match d with | .up => c.count + 1 | .down => c.count - 1)
    let moved := (match d with | .up => min (s.tcu.L + n.2) Config.coordMax | .down => s.tcu.L - n.2)
    let dropped := (match d with | .up => Config.coordMax < s.tcu.L + n.2 | .down => s.tcu.L < n.2)
    c.enable = true → decodePhases c.mode c.last x = .step d →
    ∃ t, exec (.phaseSample ch p1 p2) s = .next t
      ∧ t = { s with pins := s.pins.set ch x, tcu := t.tcu, travel := t.travel }
      ∧ t.tcu.chan ch.other = s.tcu.chan ch.other ∧ t.tcu.puller = s.tcu.puller
      ∧ t.tcu.chan ch = { c with last := x, count := count, dir := d, remainder := (t.tcu.chan ch).remainder }
      ∧ (s.tcu.puller ≠ ch → (t.tcu.chan ch).remainder = n.1 ∧ t.tcu.L = s.tcu.L ∧ t.tcu.Lhw = s.tcu.Lhw
          ∧ t.tcu.Lbase = s.tcu.Lbase ∧ t.tcu.refCount = s.tcu.refCount)
      ∧ (s.tcu.puller = ch → t.tcu.L = moved ∧ t.tcu.Lhw = max s.tcu.Lhw moved)
      ∧ (s.tcu.puller = ch → ¬ dropped → (t.tcu.chan ch).remainder = n.1 ∧ t.tcu.Lbase = s.tcu.Lbase
          ∧ t.tcu.refCount = s.tcu.refCount)
      ∧ (s.tcu.puller = ch → dropped → (t.tcu.chan ch).remainder = 0 ∧ t.tcu.Lbase = moved ∧ t.tcu.refCount = count)
      ∧ (t.tcu.L = s.tcu.L → t.travel = s.travel)
      ∧ (t.tcu.L ≠ s.tcu.L → t.travel = { rc := some (s.travel.rc.getD s.tcu.L), iu := some (s.travel.iu.getD s.tcu.L),
                                          cps := some (s.travel.cps.getD s.tcu.L), swm := some (s.travel.swm.getD s.tcu.L) })

/-- HANDOVER in DOUBLE mode while metal moves: both enabled channels captured, the other channel the strand puller with the old
one's remainder, L its base, its count the reference count; L and all else as they were. In any other case: STRAY, and nothing
else. -/
def Obligations.HandoverChangesPullerAndKeepsL : Prop :=
  ∀ s : State,
    let taken := s.line.cfg.pullerMode = .double ∧ (s.rc.run = .running ∨ s.rc.run = .dead ∨ s.rc.run = .draining)
    (¬ taken → exec .handover s = .next (s.withCause .stray))
    ∧ (taken → ∃ t, exec .handover s = .next t ∧ t = { s with tcu := t.tcu } ∧ t.tcu.L = s.tcu.L ∧ t.tcu.Lhw = s.tcu.Lhw
        ∧ t.tcu.Lbase = s.tcu.L ∧ t.tcu.puller = s.tcu.puller.other
        ∧ (t.tcu.chan s.tcu.puller.other).remainder = (s.tcu.chan s.tcu.puller).remainder
        ∧ (t.tcu.chan s.tcu.puller).remainder = (s.tcu.chan s.tcu.puller).remainder
        ∧ ((s.tcu.chan s.tcu.puller.other).enable = true → t.tcu.refCount = (s.tcu.chan s.tcu.puller.other).count)
        ∧ ∀ ch : Chan,
            let c := s.tcu.chan ch
            let r := (t.tcu.chan ch).remainder
            (c.enable = true → t.tcu.chan ch = { c with capture := c.count, capturePrev := c.capture, remainder := r })
            ∧ (c.enable = false → t.tcu.chan ch = { c with remainder := r }))

/-! ### The die run (02) -/

/-- START-RUN: its refusals in their order; accepted, it sets up every block for the run from PENDING. The port keeps its mask set, its
fault context and its buffer, and loses no cause. A line that was isolated is OFF with no on-point; any other is as ARMED leaves it, kept
under RETAIN where its strand is active and enabled, else OFF. Where no claim handed before waits (or none can find metal: log 26), the saw keeps
its state, its reasons and its timeout, and the Piece Table its pieces. -/
def Obligations.StartRunSetsUpTheRun : Prop :=
  ∀ s : State, s.lp.port = .ready →
    (s.rc.run ≠ .idle → refusedAs .startRun s .startRun .aborted .none)
    ∧ (s.rc.run = .idle → s.line.valid = false → refusedAs .startRun s .startRun .aborted .none)
    ∧ (s.rc.run = .idle → s.line.valid = true → s.tps.work = none → refusedAs .startRun s .startRun .check .none)
    ∧ (∀ p, s.rc.run = .idle → s.line.valid = true → s.tps.work = some p → ¬ (p.minLen ≤ p.target ∧ p.target ≤ p.maxLen) →
        refusedAs .startRun s .startRun .check (.field (if p.target < p.minLen then 10 else 11) 0))
    ∧ (∀ p, s.rc.run = .idle → s.line.valid = true → s.tps.work = some p → p.minLen ≤ p.target → p.target ≤ p.maxLen →
        ∃ u, endsAs .startRun s u .startRun .none [] .none
          ∧ u.rc = { run := .armed, active := p.strandCount, future := u.rc.future,
                     billets := [{ ordinal := 1, start := 0, stop := none, noChangeStops := false }], deadNote := false,
                     tail := none, tailReleased := false }
          ∧ (∀ st : Strand, u.rc.future[st] =
              { FutureList.empty with nose := if st.val < p.strandCount ∧ 0 < p.noseLen then some p.noseLen else none })
          ∧ u.tcu = { s.tcu with puller := .a, L := 0, Lhw := 0, Lbase := 0, refCount := s.tcu.chA.count,
                                 chA := { s.tcu.chA with remainder := 0 } }
          ∧ u.tps = { s.tps with active := some { template := p, generation := 1 }, previous := none, commitCoord := none,
                                 late := 0 }
          ∧ (∀ g : Gauge, (u.iu.link g).queue = (s.iu.link g).queue ∧ (u.iu.link g).blind = none
              ∧ ∀ st : Strand, (u.iu.link g).covered[st] = 0)
          ∧ u.iu.trackers = Vector.replicate 4 (Vector.replicate 12 Tracker.fresh)
          ∧ u.cps.plan = none ∧ u.cps.planLate = false ∧ u.cps.cutCounter = 0 ∧ u.cps.lastCut = none
          ∧ u.cps.holdNote = s.cps.holdNote ∧ u.pt.queue = s.pt.queue ∧ u.pt.headMark = false
          ∧ (∀ st : Strand, u.swm.windows[st] = .empty ∧ u.swm.lines[st].isolated = false
              ∧ ((s.swm.lines[st]).isolated = true → u.swm.lines[st] = { on := false, onPoint := none, isolated := false })
              ∧ ((s.swm.lines[st]).isolated = false → s.ts.handed = [] ∨ s.rc.active = 0 →
                  u.swm.lines[st] = (s.swm.lines[st]).atRest s.line.cfg p.strandCount st))
          ∧ u.line = s.line ∧ u.travel = s.travel ∧ u.pins = s.pins ∧ u.pending = s.pending
          ∧ hasCause u.lp.alerts.pendingSet .runState = true ∧ s.portKept u
          ∧ (s.ts.handed = [] ∨ s.rc.active = 0 →
              u.cps = { s.cps with plan := none, planLate := false, cutCounter := 0, lastCut := none }
              ∧ u.pt = { s.pt with headMark := false }))

/-- START-RUN with a slot for every strand and no claim left over: each active strand's track is one open zone from 0, with NOSE
where the template has a nose length, billet 1 and generation 1. -/
def Obligations.StartRunOpensFirstZones : Prop :=
  ∀ (s : State) (p : Template) (st : Strand), s.lp.port = .ready → s.rc.run = .idle → s.line.valid = true →
    s.tps.work = some p → p.minLen ≤ p.target → p.target ≤ p.maxLen → s.ts.handed = [] → 4 ≤ s.ts.available →
    st.val < p.strandCount →
    ∃ t k, exec .startRun s = .next t ∧ t.ts.first[st] = 0
      ∧ t.ts.tracks[st] =
        [{ key := k, strand := st, start := 0, place := .opened,
           conds := if 0 < p.noseLen then condMask .nose else 0, severity := .none, override := none, billet := 1,
           generation := 1, findings := [], truncated := false }]

/-- NO-BILLET-CHANGE sets the note in DEAD and is refused with ABORTED elsewhere. A falling edge of PRESS-RUN in RUNNING records L
as the stop of the newest billet, clears the note and takes the run to DEAD; a rising edge in ARMED takes it to RUNNING, where every line
is judged and, unless the hold note is set, the saw goes to READY and plans: without a plan it stays READY with the reason, else the
plan is the one computed from that moment, PLANNED, with the threshold judged; any other edge but the rising one in DEAD is stray. (READY
drops the wait reason: log 15.) -/
def Obligations.PressRunEdgesMoveTheRun : Prop :=
  ∀ s : State,
    (s.lp.port = .ready →
      (s.rc.run = .dead →
        endsAs .noBilletChange s { s with rc := { s.rc with deadNote := true } } .noBilletChange .none [] .none)
      ∧ (s.rc.run ≠ .dead → refusedAs .noBilletChange s .noBilletChange .aborted .none))
    ∧ (s.rc.run ≠ .running → exec .pressRunFalling s =
        .next ({ s with pins := { s.pins with pressRun := false } }.withCause .stray))
    ∧ (s.rc.run = .running → ∃ bl ls, exec .pressRunFalling s =
        .next ({ s with pins := { s.pins with pressRun := false },
                        rc := { s.rc with run := .dead, billets := bl, deadNote := false },
                        swm := { s.swm with lines := ls } }.withCause .runState)
        ∧ (∀ bs b, s.rc.billets = bs ++ [b] → bl = bs ++ [{ b with stop := some s.tcu.L }])
        ∧ ∀ st : Strand, ls[st] = (s.swm.lines[st]).atRest s.line.cfg s.rc.active st)
    ∧ (∀ k, s.rc.run ≠ .armed → s.rc.run ≠ .dead → exec (.pressRunRising k) s =
        .next ({ s with pins := { s.pins with pressRun := true } }.withCause .stray))
    ∧ (∀ k, s.rc.run = .armed → ∃ t ls, exec (.pressRunRising k) s = .next t
        ∧ hasCause t.lp.alerts.pendingSet .runState = true
        ∧ (let u := ({ s with pins := { s.pins with pressRun := true }, rc := { s.rc with run := .running },
                              swm := { s.swm with lines := ls } } : State).withCause .runState
          (∀ st : Strand, ls[st] = u.judged st s.swm.lines[st])
          ∧ (s.cps.holdNote = true → t = u)
          ∧ (s.cps.holdNote = false →
              { u with cps := { u.cps with saw := .ready, wait := .none } }.replans t ∧ t.cps.planned)))

/-- The rising edge that ends a dead cycle takes the run to RUNNING. With no note, an ordinal below 65,535 and metal moved since the newest
billet's start, it makes the next billet, dropping the oldest of 32; else it marks the newest NO-CHANGE-STOPS. On every active strand it
makes or extends the STOP entry where the band reaches above L, and at a billet change the WELD entry; where an entry changes the saw plans
anew, and its plan is then that of the records (no live entry ending at or below the end of its track: log 17). Where a billet is made or an
entry is new, and slots are free for every strand and a reservation, the strand's boundary leaves an open zone with the conditions of its
entries, the newest billet and ACTIVE's generation; the other strands' tracks stay. The STOP claims of the band below L are handed on every
active strand, taken within the edge or later (log 4). (An empty band: log 14. That the claims stand, and are taken, in order of strand
number: log 44. A plan made anew that gives none drops the wait reason: log 15. RUNNING is entered first, and the saw plans at the change of
an entry, on the tracks as they are before the boundary and the STOP claims; a GO given there stands: log 33. Claims of Run Control that
wait from an earlier event stay waiting: log 59.) -/
def Obligations.PressRunEndsDeadCycle : Prop :=
  ∀ (s : State) (k : Taking) (bs : List Billet) (b : Billet), s.rc.run = .dead → s.rc.billets = bs ++ [b] →
    let g := s.activeTemplate
    let top := b.stop.getD s.tcu.L + g.stopAfter
    let change := s.rc.deadNote = false ∧ b.ordinal < 65535 ∧ b.start < s.tcu.L
    ∃ t, exec (.pressRunRising k) s = .next t
      ∧ { s with pins := { s.pins with pressRun := true },
                 rc := { s.rc with run := .running, billets := t.rc.billets, future := t.rc.future } }.onlyRecords t
      ∧ (t.rc.future ≠ s.rc.future →
          (∃ ls w, (({ s with pins := { s.pins with pressRun := true }, swm := { s.swm with lines := ls },
                              rc := { s.rc with run := .running, billets := t.rc.billets, future := t.rc.future } } : State).withCause
              .runState).replans w ∧ w.onlyRecords t)
          ∧ (s.recordsSound → (∀ st : Strand, st.val < s.rc.active → ∀ e ∈ (t.rc.future[st]).ends, s.boundaryCoord st < e) →
              t.planStands))
      ∧ hasCause t.lp.alerts.pendingSet .runState = true
      ∧ (change → t.rc.billets = (if (bs ++ [b]).length < 32 then bs ++ [b] else (bs ++ [b]).tail)
            ++ [{ ordinal := b.ordinal + 1, start := s.tcu.L, stop := none, noChangeStops := false }])
      ∧ (¬ change → t.rc.billets = bs ++ [{ b with noChangeStops := true }])
      ∧ ∀ st : Strand,
          (s.rc.active ≤ st.val → t.rc.future[st] = s.rc.future[st])
          ∧ (st.val < s.rc.active → t.rc.future[st] =
              { s.rc.future[st] with
                stop := if s.tcu.L < top ∧ ¬(g.stopBefore = 0 ∧ g.stopAfter = 0) then some (max ((s.rc.future[st]).stop.getD 0) top)
                        else (s.rc.future[st]).stop,
                weld := if change ∧ 0 < g.weldLen then some (max ((s.rc.future[st]).weld.getD 0) (s.tcu.L + g.weldLen))
                        else (s.rc.future[st]).weld })
          ∧ (k = .later →
              let f := s.rc.future[st]
              let f' := t.rc.future[st]
              let due := st.val < s.rc.active ∧ (change ∨ f.stop = none ∧ f'.stop.isSome = true ∨ f.weld = none ∧ f'.weld.isSome = true)
              (¬ due → t.track st = s.track st)
              ∧ (∀ z, due → s.rc.active + 4 ≤ s.ts.available → (s.track st).getLast? = some z → z.isOpen = true →
                  ∃ y, (t.track st).getLast? = some y ∧ y.isOpen = true ∧ y.conds = f'.conds ∧ y.billet = t.newestOrdinal
                    ∧ y.generation = s.activeGeneration ∧ (y.start = max s.tcu.L z.start ∨ ∃ x ∈ s.track st, y.start = x.start)))
      ∧ (let low := b.stop.getD s.tcu.L - g.stopBefore
        let claims := if low < min top s.tcu.L then s.activeStrands.map fun st =>
            ({ strand := st, x1 := low, x2 := min top s.tcu.L, action := .add .stop, severity := .none, finding := none,
               mandatory := true } : Claim)
          else []
        ∃ u, exec (.pressRunRising .later) s = .next { u with ts := { u.ts with handed := s.ts.handed ++ claims.map fun c => (.runControl, c) } }
          ∧ u.ts.handed = s.ts.handed ∧ exec (.pressRunRising .atOnce) s = .next (claims.foldl State.takeClaim u))

/-- END-RUN: refused with ABORTED in IDLE and DRAINING; in ARMED it frees every track and returns to IDLE; in RUNNING and DEAD it takes the
run to DRAINING with the tail coordinate, the greater of L and the greatest start of an open zone, every future entry gone. There each open
zone is closed at the tail coordinate, without the findings that lie at or above it, or is freed where it begins at or above it and is not
the only zone; and END claims over the end scrap are handed on every active strand, taken within the request, one after the other from the
state with the closed tracks, or left for later (log 4); in READY and PLANNED the saw then plans anew. In ARMED the port keeps its mask set,
its fault context and its buffer. (The END claims in order of strand number: log 44. A plan made anew that gives none drops the wait reason:
log 15. Claims of Run Control that wait from an earlier event stay waiting: log 59.) -/
def Obligations.EndRunByState : Prop :=
  ∀ (s : State) (k : Taking), s.lp.port = .ready →
    (s.rc.run = .idle ∨ s.rc.run = .draining → refusedAs (.endRun k) s .endRun .aborted .none)
    ∧ (s.rc.run = .armed → ∃ u, endsAs (.endRun k) s u .endRun .none [] .none
        ∧ u = { s with rc := { run := .idle, active := 0, future := Vector.replicate 4 FutureList.empty, billets := [],
                               deadNote := false, tail := none, tailReleased := false },
                       ts := u.ts, swm := u.swm, lp := u.lp }
        ∧ s.portKept u
        ∧ (∀ st : Strand, u.ts.tracks[st] = [] ∧ u.swm.windows[st] = .empty
            ∧ ((s.swm.lines[st]).isolated = false → (u.swm.lines[st]).on = false))
        ∧ hasCause u.lp.alerts.pendingSet .runState = true)
    ∧ (s.rc.run = .running ∨ s.rc.run = .dead → ∃ u x, endsAs (.endRun k) s u .endRun .none [] .none
        ∧ { s with rc := { s.rc with run := .draining, future := Vector.replicate 4 FutureList.empty, deadNote := false,
                                     tail := some x } }.onlyRecords u
        ∧ { s with rc := { s.rc with run := .draining, future := Vector.replicate 4 FutureList.empty, deadNote := false,
                                     tail := some x } }.plansAnew u
        ∧ s.tcu.L ≤ x ∧ (∀ st : Strand, st.val < s.rc.active → ∀ a, openStart? (s.track st) = some a → a ≤ x)
        ∧ (x = s.tcu.L ∨ ∃ st : Strand, st.val < s.rc.active ∧ openStart? (s.track st) = some x)
        ∧ (let claims := if 0 < s.activeTemplate.endScrap ∧ 0 < x then s.activeStrands.map fun st =>
              ({ strand := st, x1 := x - s.activeTemplate.endScrap, x2 := x, action := .add .tailBand, severity := .none,
                 finding := none, mandatory := true } : Claim)
            else []
          ∃ w, { s.taking (.endRun k) with rc := { s.rc with future := Vector.replicate 4 FutureList.empty, deadNote := false,
                                                             tail := some x } }.onlyRecords w
            ∧ w.ts.handed = s.ts.handed
            ∧ (∀ (st : Strand) (zs : List Zone) (z : Zone), st.val < s.rc.active → s.track st = zs ++ [z] → z.isOpen = true →
              let below := z.findings.filter fun f => decide (f.loc < x)
              (z.start < x ∨ zs = [] → w.track st = zs ++
                [{ z with place := .closed x, findings := below, truncated := z.truncated || decide (below.length < z.findings.length) }])
              ∧ (x ≤ z.start → zs ≠ [] → w.track st = zs))
            ∧ (k = .later → u.ts.tracks = w.ts.tracks ∧ u.pt.pieces = w.pt.pieces
                ∧ u.ts.handed = s.ts.handed ++ claims.map fun c => (.runControl, c))
            ∧ (k = .atOnce → let v := claims.foldl State.takeClaim w
                u.ts.tracks = v.ts.tracks ∧ u.pt.pieces = v.pt.pieces ∧ u.ts.handed = s.ts.handed))
        ∧ hasCause u.lp.alerts.pendingSet .runState = true)

/-- ABANDON-RUN, in every state but IDLE, where it is refused with ABORTED: no zone, no piece, no reservation, no queue, no billet,
no working template but PENDING; the saw HELD with no plan and no timeout; the run IDLE. The cut counter, the hold note, the last cut,
the travel counter and the configuration stay, and the port keeps its mask set, its fault context and its buffer. -/
def Obligations.AbandonRunFreesEverything : Prop :=
  ∀ s : State, s.lp.port = .ready →
    (s.rc.run = .idle → refusedAs .abandonRun s .abandonRun .aborted .none)
    ∧ (s.rc.run ≠ .idle → ∃ u, endsAs .abandonRun s u .abandonRun .none [] .none
        ∧ u.rc = { run := .idle, active := 0, future := Vector.replicate 4 FutureList.empty, billets := [], deadNote := false,
                   tail := none, tailReleased := false }
        ∧ (∀ st : Strand, u.ts.tracks[st] = []) ∧ u.ts.setAside = 0
        ∧ u.pt.pieces = [] ∧ u.pt.queue = [] ∧ u.pt.setAside = 0 ∧ u.pt.headMark = false
        ∧ (∀ g : Gauge, (u.iu.link g).queue = [] ∧ (u.iu.link g).blind = none ∧ ∀ st : Strand, (u.iu.link g).covered[st] = 0)
        ∧ u.iu.trackers = Vector.replicate 4 (Vector.replicate 12 Tracker.fresh)
        ∧ u.cps = { s.cps with saw := .held, plan := none, planLate := false, wait := .none, noPlan := .none, timeout := none }
        ∧ u.tps = { s.tps with active := none, previous := none, commitCoord := none, late := 0 }
        ∧ (∀ st : Strand, u.swm.windows[st] = .empty ∧ ((u.swm.lines[st]).isolated = false → (u.swm.lines[st]).on = false))
        ∧ u.tcu = s.tcu ∧ u.line = s.line ∧ u.travel = s.travel ∧ u.pins = s.pins ∧ u.pending = s.pending
        ∧ hasCause u.lp.alerts.pendingSet .runState = true ∧ s.portKept u)

/-- Run Control takes the travel event that waits for it. In ARMED, RUNNING and DEAD every live entry of an active strand whose end is
at or below L leaves its list, and no other; where slots are free for the boundaries and a
reservation, the strand that an entry left ends in an open zone with the conditions of the entries left, the newest billet and
ACTIVE's generation, and a strand that none left keeps its track (the strands in order: log 44). In DRAINING the tail is released
exactly where L − d_SAW has reached the tail coordinate and the pieces have slots: no active strand keeps a track; a PLANNED saw goes to
READY with reason TAIL, a saw in GO to FAULT with SAW-FAULT and its plan, its reservation returned, and one held in FAULT too; the strands
that give a piece make the TAIL set, from their first coordinate to the tail coordinate, with the next cut number; billets drop; and with no
piece held the run returns to IDLE. (With no event waiting nothing happens: log 3. A PLANNED saw that goes to READY drops its wait reason:
log 15.) -/
def Obligations.TravelAtRunControl : Prop :=
  ∀ s : State,
    (s.travel.rc = none → exec .futureConditionExpiry s = .next s)
    ∧ (s.travel.rc.isSome = true →
        let s1 := { s with travel := { s.travel with rc := none } }
        (s.rc.run = .idle → exec .futureConditionExpiry s = .next s1)
        ∧ (s.rc.run = .armed ∨ s.rc.run = .running ∨ s.rc.run = .dead → ∃ t, exec .futureConditionExpiry s = .next t
            ∧ { s1 with rc := { s.rc with future := t.rc.future } }.onlyRecords t
            ∧ ∀ st : Strand,
                (s.rc.active ≤ st.val → t.rc.future[st] = s.rc.future[st])
                ∧ (st.val < s.rc.active →
                    let f := s.rc.future[st]
                    let live := fun (e : Option Coord) => e.filter fun x => decide (s.tcu.L < x)
                    t.rc.future[st] = { nose := live f.nose, weld := live f.weld, stop := live f.stop, held := live f.held })
                ∧ (let past := (s.rc.future[st]).ends.filter fun e => decide (e ≤ s.tcu.L)
                  (s.rc.active ≤ st.val ∨ past = [] → t.track st = s.track st)
                  ∧ (∀ z, st.val < s.rc.active → past ≠ [] → s.rc.active + 16 ≤ s.ts.available → (s.track st).getLast? = some z →
                      z.isOpen = true → ∃ y, (t.track st).getLast? = some y ∧ y.isOpen = true ∧ y.conds = (t.rc.future[st]).conds
                        ∧ y.billet = s.newestOrdinal ∧ y.generation = s.activeGeneration
                        ∧ (y.start ∈ past ∨ ∃ x ∈ s.track st, y.start = x.start))))
        ∧ (s.rc.run = .draining →
            ((∀ x, ¬ s.releaseDue x) → exec .futureConditionExpiry s = .next s1)
            ∧ (∀ x, s.releaseDue x → ∃ t, exec .futureConditionExpiry s = .next t ∧ s1.releasesTail t x)))

/-! ### Templates and protection (05) -/

/-- EDIT-TEMPLATE: LOCKED; then RANGE, naming field and index, where the field, the index or the value is outside its range or the
index is above the features; else PENDING, or the default template, with that field written and its check word computed.
The ranges of the 21 fields, and what each field's writing leaves: that field alone; raising the feature count adds features with
their first values, lowering it discards the last. (An index given with fields 1 to 15 is not checked, and the failing item shows it as
sent: log 56.) -/
def Obligations.EditWritesOneField : Prop :=
  (∀ (s : State) (field index : Nat) (v : Int), s.lp.port = .ready →
    let base := s.tps.work.getD Template.defaults
    let named := 1 ≤ field ∧ field ≤ 21 ∧ (16 ≤ field → field ≤ 20 → index ≤ 11) ∧ (field = 21 → index ≤ 7)
    let takes := named ∧ (fieldRange field).1 ≤ v ∧ v ≤ (fieldRange field).2
      ∧ (16 ≤ field → field ≤ 20 → index < base.features.length)
    let p := (writeField base field index v).sealed
    (s.tps.protection = .locked → refusedAs (.editTemplate field index v) s .editTemplate .locked .none)
    ∧ (s.tps.protection ≠ .locked → ¬ takes →
        refusedAs (.editTemplate field index v) s .editTemplate .range (.field field index))
    ∧ (s.tps.protection ≠ .locked → takes →
        endsAs (.editTemplate field index v) s { s with tps := { s.tps with work := some p } } .editTemplate .none
          (enc2 p.check.toNat ++ encFlag (decide (p.minLen ≤ p.target) && decide (p.target ≤ p.maxLen))) .none
        ∧ p.check = p.computed))
  ∧ ((List.range 21).map fun f => fieldRange (f + 1)) =
      [(0, 65535), (1, 4), (0, 12), (0, 2000000), (0, 500000), (0, 100000), (0, 100000), (0, 500000)]
        ++ [(5000, 1200000), (5000, 1200000), (5000, 1200000), (0, 15), (0, 7), (1, 15), (1, 15)]
        ++ [(-8388608, 8388607), (0, 65535), (0, 65535), (0, 1), (0, 1), (0, 2)]
  ∧ (∀ t : Template, t.sealed = { t with check := crc16 (encTemplateBody t) })
  ∧ ∀ (t : Template) (i n : Nat),
      let w := fun (field : Nat) => writeField t field i (n : Int)
      let blank : Feature := { nominal := 0, lower := 0, upper := 0, station := .g0, severity := .review }
      let feature := fun (x : Template) (g : Feature → Feature) =>
        x = { t with features := x.features } ∧ x.features.length = t.features.length
        ∧ ∀ j, x.features[j]? = if j = i then (t.features[j]?).map g else t.features[j]?
      w 1 = { t with dieNumber := n } ∧ w 2 = { t with strandCount := n }
      ∧ w 3 = { t with features := t.features.take n ++ List.replicate (n - t.features.length) blank }
      ∧ w 4 = { t with noseLen := n } ∧ w 5 = { t with weldLen := n } ∧ w 6 = { t with stopBefore := n }
      ∧ w 7 = { t with stopAfter := n } ∧ w 8 = { t with endScrap := n } ∧ w 9 = { t with target := n }
      ∧ w 10 = { t with minLen := n } ∧ w 11 = { t with maxLen := n } ∧ w 12 = { t with cutOut := BitVec.ofNat 8 n }
      ∧ w 13 = { t with markSet := BitVec.ofNat 3 n } ∧ w 14 = { t with nOut := n } ∧ w 15 = { t with mIn := n }
      ∧ (∀ v : Int, feature (writeField t 16 i v) fun f => { f with nominal := v })
      ∧ feature (w 17) (fun f => { f with lower := n }) ∧ feature (w 18) (fun f => { f with upper := n })
      ∧ feature (w 19) (fun f => { f with station := if n = 0 then .g0 else .g2 })
      ∧ feature (w 20) (fun f => { f with severity := if n = 0 then .review else .scrap })
      ∧ (n ≤ 2 → w 21 = { t with flaws := (w 21).flaws } ∧ ∀ j : Fin 8, (w 21).flaws[j] =
          if j.val = i then (match n with | 0 => .ignore | 1 => .review | _ => .scrap) else t.flaws[j])

/-- LOAD-TEMPLATE: RANGE for a slot above 15, CHECK for an INVALID one; else the port is BUSY. At its completion the slot as it reads
back replaces PENDING where its check word matches; else the slot is INVALID and the request ends with CHECK, PENDING as it was. -/
def Obligations.LoadReplacesPending : Prop :=
  ∀ (s : State) (i : Fin 16) (rb : ReadBack),
    (s.lp.port = .ready →
      (∀ n, 16 ≤ n → refusedAs (.loadTemplate n) s .loadTemplate .range .none)
      ∧ (s.tps.library[i] = none → refusedAs (.loadTemplate i.val) s .loadTemplate .check .none)
      ∧ (s.tps.library[i].isSome = true → goesOnAs (.loadTemplate i.val) s s (.busy (.load i))))
    ∧ (s.lp.port = .busy (.load i) →
      let read := (match rb with | some x => some x | none => s.tps.library[i])
      (∀ x, read = some x → x.check = x.computed → exec (.loadCompletion rb) s =
        .next { s with tps := { s.tps with work := some x },
                       lp := s.lp.endedLater .loadTemplate .none (enc2 x.dieNumber ++ enc2 x.check.toNat) .none 0 })
      ∧ ((∀ x, read = some x → x.check ≠ x.computed) → exec (.loadCompletion rb) s =
        .next { s with tps := { s.tps with library := s.tps.library.set i none },
                       lp := s.lp.endedLater .loadTemplate .check [] (.slot i.val) 0 }))
    ∧ ((∀ j, s.lp.port ≠ .busy (.load j)) → exec (.loadCompletion rb) s = .next s)

/-- STORE-TEMPLATE: LOCKED, RANGE, DEVICE-FAULT, CHECK, in that order; else the slot is INVALID at once and the port BUSY. At its completion
the slot is VALID with PENDING where it verifies; else DEVICE-FAULT is set and the request ends with it. (The slot number of the reply in
one byte: log 12.) -/
def Obligations.StoreWritesSlot : Prop :=
  ∀ (s : State) (i : Fin 16) (rb : ReadBack),
    (s.lp.port = .ready →
      (∀ n, s.tps.protection = .locked → refusedAs (.storeTemplate n) s .storeTemplate .locked .none)
      ∧ (∀ n, s.tps.protection ≠ .locked → 16 ≤ n → refusedAs (.storeTemplate n) s .storeTemplate .range .none)
      ∧ (s.tps.protection ≠ .locked → s.tps.deviceFault = true →
          refusedAs (.storeTemplate i.val) s .storeTemplate .deviceFault .none)
      ∧ (s.tps.protection ≠ .locked → s.tps.deviceFault = false → s.tps.work = none →
          refusedAs (.storeTemplate i.val) s .storeTemplate .check .none)
      ∧ (∀ p, s.tps.protection ≠ .locked → s.tps.deviceFault = false → s.tps.work = some p →
          ¬ (p.minLen ≤ p.target ∧ p.target ≤ p.maxLen) →
          refusedAs (.storeTemplate i.val) s .storeTemplate .check (.field (if p.target < p.minLen then 10 else 11) 0))
      ∧ (∀ p, s.tps.protection ≠ .locked → s.tps.deviceFault = false → s.tps.work = some p → p.minLen ≤ p.target →
          p.target ≤ p.maxLen →
          goesOnAs (.storeTemplate i.val) s { s with tps := { s.tps with library := s.tps.library.set i none } } (.busy (.store i))))
    ∧ (∀ p, s.lp.port = .busy (.store i) → s.tps.work = some p →
      let verified := rb.getD p = p ∧ p.check = p.computed
      (verified → exec (.storeCompletion rb) s =
        .next { s with tps := { s.tps with library := s.tps.library.set i (some p) },
                       lp := s.lp.endedLater .storeTemplate .none (enc1 i.val ++ enc2 p.check.toNat) .none 0 })
      ∧ (¬ verified → exec (.storeCompletion rb) s =
        .next { s with tps := { s.tps with deviceFault := true },
                       lp := s.lp.endedLater .storeTemplate .deviceFault [] (.slot i.val) 0 }))
    ∧ ((∀ j, s.lp.port ≠ .busy (.store j)) → exec (.storeCompletion rb) s = .next s)

/-- READ-TEMPLATE delivers PENDING (16), ACTIVE (17) or PREVIOUS (18) with what goes with it, NOT-FOUND where it is empty; a VALID slot
is read with the port BUSY, an INVALID one refused with CHECK, any other target with RANGE. At the completion of a read the slot's
template is the block to fetch where its check word matches; else the slot is INVALID and the request ends with CHECK, with no failing item
(log 23). The record of a template, byte by byte (section 10.6). -/
def Obligations.ReadTemplateDelivers : Prop :=
  (∀ t : Template,
    let tu := fun (n : Nat) => encTU (n : Int)
    let feature := fun (f : Feature) => encSigned f.nominal ++ enc2 f.lower ++ enc2 f.upper
      ++ enc1 (match f.station with | .g0 => 0 | .g2 => 1) ++ enc1 (match f.severity with | .review => 0 | .scrap => 1)
    encTemplateBody t = enc2 t.dieNumber ++ enc1 t.strandCount ++ enc1 t.features.length ++ tu t.noseLen ++ tu t.weldLen
      ++ tu t.stopBefore ++ tu t.stopAfter ++ tu t.endScrap ++ tu t.target ++ tu t.minLen ++ tu t.maxLen ++ [t.cutOut]
      ++ enc1 t.markSet.toNat ++ enc1 t.nOut ++ enc1 t.mIn ++ (t.features.take 12).flatMap feature
      ++ List.replicate (10 * (12 - (t.features.take 12).length)) 0#8
      ++ t.flaws.toList.flatMap (fun f => enc1 (match f with | .ignore => 0 | .review => 1 | .scrap => 2))
    ∧ encTemplate t = encTemplateBody t ++ enc2 t.check.toNat) ∧
  ∀ (s : State) (i : Fin 16) (rb : ReadBack),
    (s.lp.port = .ready →
      (∀ n, 19 ≤ n → refusedAs (.readTemplate n) s .readTemplate .range .none)
      ∧ (s.tps.library[i] = none → refusedAs (.readTemplate i.val) s .readTemplate .check .none)
      ∧ (s.tps.library[i].isSome = true → goesOnAs (.readTemplate i.val) s s (.busy (.readSlot i)))
      ∧ (s.tps.work = none → refusedAs (.readTemplate 16) s .readTemplate .notFound .none)
      ∧ (∀ p, s.tps.work = some p → deliversAs (.readTemplate 16) s s .readTemplate (encTemplate p ++ encFlag p.inOrder))
      ∧ (s.tps.active = none → refusedAs (.readTemplate 17) s .readTemplate .notFound .none)
      ∧ (∀ g, s.tps.active = some g →
          deliversAs (.readTemplate 17) s s .readTemplate (encTemplate g.template ++ enc1 g.generation))
      ∧ (s.tps.previous = none → refusedAs (.readTemplate 18) s .readTemplate .notFound .none)
      ∧ (∀ g c, s.tps.previous = some g → s.tps.commitCoord = some c →
          deliversAs (.readTemplate 18) s s .readTemplate
            (encTemplate g.template ++ enc1 g.generation ++ encTU (c : Int) ++ encFlag (decide (s.tps.late ≠ 0)))))
    ∧ (s.lp.port = .busy (.readSlot i) →
      let read := (match rb with | some x => some x | none => s.tps.library[i])
      (∀ x, read = some x → x.check = x.computed → exec (.libraryReadCompletion rb) s =
        .next { s with lp := { s.lp with port := .dataOut (.snapshot .readTemplate), buffer := encTemplate x } })
      ∧ ((∀ x, read = some x → x.check ≠ x.computed) → exec (.libraryReadCompletion rb) s =
        .next { s with tps := { s.tps with library := s.tps.library.set i none },
                       lp := s.lp.endedLater .readTemplate .check [] .none 0 }))
    ∧ ((∀ j, s.lp.port ≠ .busy (.readSlot j)) → exec (.libraryReadCompletion rb) s = .next s)

/-- COMMIT-TEMPLATE: ABORTED, LOCKED, IN-USE, CHECK, RANGE, in that order; accepted, ACTIVE becomes PREVIOUS and PENDING becomes ACTIVE
with the next generation, 1 after 255, and the reply carries it with the commit coordinate, the greater of L and the greatest start of
an open zone, at which the new generation begins: each active strand's track then ends in an open zone of that generation, or the
strand is late, where no slot was free for its boundary. In READY and PLANNED the saw plans anew with the new template. (A plan dropped
takes its wait reason with it: log 15.) -/
def Obligations.CommitChangesTemplates : Prop :=
  ∀ s : State, s.lp.port = .ready →
    let runs := s.rc.run = .running ∨ s.rc.run = .dead
    (¬ runs → refusedAs .commitTemplate s .commitTemplate .aborted .none)
    ∧ (runs → s.tps.protection = .locked → refusedAs .commitTemplate s .commitTemplate .locked .none)
    ∧ (runs → s.tps.protection ≠ .locked → s.tps.previous.isSome = true → refusedAs .commitTemplate s .commitTemplate .inUse .none)
    ∧ (runs → s.tps.protection ≠ .locked → s.tps.previous = none → s.tps.work = none →
        refusedAs .commitTemplate s .commitTemplate .check .none)
    ∧ (∀ p a, runs → s.tps.protection ≠ .locked → s.tps.previous = none → s.tps.work = some p → s.tps.active = some a →
        (¬ (p.minLen ≤ p.target ∧ p.target ≤ p.maxLen) →
          refusedAs .commitTemplate s .commitTemplate .check (.field (if p.target < p.minLen then 10 else 11) 0))
        ∧ (p.minLen ≤ p.target → p.target ≤ p.maxLen → p.strandCount ≠ s.rc.active →
          refusedAs .commitTemplate s .commitTemplate .range (.field 2 0))
        ∧ (p.minLen ≤ p.target → p.target ≤ p.maxLen → p.strandCount = s.rc.active →
          let g := if a.generation = 255 then 1 else a.generation + 1
          ∃ u x, endsAs .commitTemplate s u .commitTemplate .none (enc1 g ++ encTU ((x : Nat) : Int)) .none
            ∧ { s with tps := { s.tps with active := some { template := p, generation := g }, previous := some a } }.onlyRecords u
            ∧ { s with tps := { s.tps with active := some { template := p, generation := g }, previous := some a } }.plansAnew u
            ∧ s.tcu.L ≤ x ∧ (∀ st : Strand, st.val < s.rc.active → ∀ b, openStart? (s.track st) = some b → b ≤ x)
            ∧ (x = s.tcu.L ∨ ∃ st : Strand, st.val < s.rc.active ∧ openStart? (s.track st) = some x)
            ∧ u.tps.commitCoord = some x
            ∧ ∀ (st : Strand) (z : Zone), st.val < s.rc.active → (s.track st).getLast? = some z → z.isOpen = true →
                ∃ y, (u.track st).getLast? = some y ∧ y.isOpen = true
                  ∧ (s.rc.active + 4 ≤ s.ts.available → y.generation = g)
                  ∧ (y.generation = g ∧ y.conds = (s.rc.future[st]).conds ∧ y.billet = s.newestOrdinal ∧ hasStrand u.tps.late st = false
                      ∧ (y.start = max s.tcu.L z.start ∨ ∃ x ∈ s.track st, y.start = x.start)
                    ∨ y.key = z.key ∧ y.generation = z.generation ∧ y.billet = z.billet ∧ y.conds = z.conds ||| (s.rc.future[st]).conds
                      ∧ hasStrand u.tps.late st = true ∧ hasCause u.lp.alerts.pendingSet .coarse = true)))

/-- UNLOCK: LOCKED while FROZEN or with no attempt left; positive with no field while UNPROTECTED; LOCKED for the LINE code at level
STRICT; the right code opens, a wrong one costs an attempt, and the reply to both carries the attempts left. LOCK takes OPEN to LOCKED
and is refused with ABORTED while UNPROTECTED; FREEZE-CODES sets FROZEN. (A code value with no meaning is refused with RANGE after the
first two checks: log 21.) -/
def Obligations.UnlockLockAndFreeze : Prop :=
  ∀ (s : State) (code : Nat) (bytes : List Byte), s.lp.port = .ready →
    let held := if code = 0 then s.tps.lineCode else s.tps.qualityCode
    let u := fun (p : Protection) (n : Nat) => { s with tps := { s.tps with protection := p, attempts := n } }
    (s.tps.frozen = true ∨ s.tps.attempts = 0 → refusedAs (.unlock code bytes) s .unlock .locked .none)
    ∧ (2 ≤ code → s.tps.frozen = false → 0 < s.tps.attempts → refusedAs (.unlock code bytes) s .unlock .range .none)
    ∧ (code ≤ 1 → s.tps.frozen = false → 0 < s.tps.attempts → s.tps.protection = .unprotected →
        endsAs (.unlock code bytes) s s .unlock .none [] .none)
    ∧ (code ≤ 1 → s.tps.frozen = false → 0 < s.tps.attempts → s.tps.protection ≠ .unprotected →
        (code = 0 → s.tps.level = .strict → refusedAs (.unlock code bytes) s .unlock .locked .none)
        ∧ (¬ (code = 0 ∧ s.tps.level = .strict) → held = some bytes →
            endsAs (.unlock code bytes) s (u .opened s.tps.attempts) .unlock .none (enc1 s.tps.attempts) .none)
        ∧ (¬ (code = 0 ∧ s.tps.level = .strict) → held ≠ some bytes →
            endsAs (.unlock code bytes) s (u s.tps.protection (s.tps.attempts - 1)) .unlock .locked (enc1 (s.tps.attempts - 1)) .none))
    ∧ (s.tps.protection ≠ .unprotected → endsAs .lock s (u .locked s.tps.attempts) .lock .none [] .none)
    ∧ (s.tps.protection = .unprotected → refusedAs .lock s .lock .aborted .none)
    ∧ endsAs .freezeCodes s { s with tps := { s.tps with frozen := true } } .freezeCodes .none [] .none

/-- SET-CODE: LOCKED while FROZEN, with no attempt left or while LOCKED; RANGE for a code, action or level with no meaning;
DEVICE-FAULT; else the port is BUSY. At its completion, where the write verifies, the codes, the level and the protection state change
over: a LINE code set opens an UNPROTECTED part, a LINE code removed unprotects it at level NORMAL; where it does not, DEVICE-FAULT is
set and the request ends with it. -/
def Obligations.SetCodeChangesOver : Prop :=
  ∀ (s : State) (code action level : Nat) (bytes : List Byte) (w : CodeWrite),
    (s.lp.port = .ready →
      let shut := s.tps.frozen = true ∨ s.tps.attempts = 0 ∨ s.tps.protection = .locked
      let named := code ≤ 1 ∧ action ≤ 1 ∧ level ≤ 1
      let write := if code = 0 then (if action = 0 then CodeWrite.setLine bytes (if level = 0 then .normal else .strict) else .removeLine)
        else (if action = 0 then .setQuality bytes else .removeQuality)
      (shut → refusedAs (.setCode code action bytes level) s .setCode .locked .none)
      ∧ (¬ shut → ¬ named → refusedAs (.setCode code action bytes level) s .setCode .range .none)
      ∧ (¬ shut → named → s.tps.deviceFault = true → refusedAs (.setCode code action bytes level) s .setCode .deviceFault .none)
      ∧ (¬ shut → named → s.tps.deviceFault = false →
          goesOnAs (.setCode code action bytes level) s s (.busy (.codeWrite write))))
    ∧ (s.lp.port = .busy (.codeWrite w) →
      exec (.codeWriteCompletion false) s =
        .next { s with tps := { s.tps with deviceFault := true }, lp := s.lp.endedLater .setCode .deviceFault [] .none 0 }
      ∧ ∃ p, exec (.codeWriteCompletion true) s = .next { s with tps := p, lp := s.lp.endedLater .setCode .none [] .none 0 }
        ∧ (∀ b l, w = .setLine b l → p = { s.tps with lineCode := some b, level := l, protection := p.protection }
            ∧ p.protection = if s.tps.protection = .unprotected then .opened else s.tps.protection)
        ∧ (∀ b, w = .setQuality b → p = { s.tps with qualityCode := some b })
        ∧ (w = .removeLine → p = { s.tps with lineCode := none, level := .normal, protection := .unprotected })
        ∧ (w = .removeQuality → p = { s.tps with qualityCode := none }))
    ∧ ((∀ x, s.lp.port ≠ .busy (.codeWrite x)) → ∀ v, exec (.codeWriteCompletion v) s = .next s)

/-! ### The saw (06) -/

/-- SAW-HOLD sets the hold note and takes READY, PLANNED and RETURN to HELD with no plan; GO, FAULT and HELD stay. SAW-RELEASE clears the
note, and where the saw is HELD and metal moves the saw plans. CLEAR-SAW-FAULT returns the reservation, then HELD where the note is set,
else READY, where it plans; ABORTED outside FAULT. To plan is to hold the plan computed at that moment, PLANNED, with the threshold judged,
or, where there is none, to stay in READY with the reason. (READY and HELD drop the wait reason: log 15.) -/
def Obligations.SawHoldReleaseAndClear : Prop :=
  ∀ s : State, s.lp.port = .ready →
    let moving := s.rc.run = .running ∨ s.rc.run = .dead ∨ s.rc.run = .draining
    let noted := { s with cps := { s.cps with holdNote := true } }
    let held := { s with cps := { s.cps with holdNote := true, saw := .held, plan := none, planLate := false, wait := .none, noPlan := .none } }
    let freed := { s with cps := { s.cps with holdNote := false } }
    let dropped := { s with cps := { s.cps with plan := none, planLate := false } }
    let ready := fun (x : State) => { x with cps := { x.cps with saw := .ready, wait := .none } }
    let stopped := fun (x : State) => { x with ts := { x.ts with setAside := 0 }, pt := { x.pt with setAside := 0 } }
    (s.cps.saw = .ready ∨ s.cps.saw = .planned →
      endsAs .sawHold s held .sawHold .none (enc1 SawState.held.code ++ encFlag true) .none)
    ∧ (s.cps.saw = .return_ → endsAs .sawHold s
        { s with cps := { s.cps with holdNote := true, saw := .held, wait := .none, noPlan := .none } } .sawHold .none
        (enc1 SawState.held.code ++ encFlag true) .none)
    ∧ (s.cps.saw = .go ∨ s.cps.saw = .fault ∨ s.cps.saw = .held →
        endsAs .sawHold s noted .sawHold .none (enc1 s.cps.saw.code ++ encFlag true) .none)
    ∧ (¬ (s.cps.saw = .held ∧ moving) →
        endsAs .sawRelease s freed .sawRelease .none (enc1 s.cps.saw.code ++ encFlag false) .none)
    ∧ (s.cps.saw = .held → moving → ∃ u, (ready freed).replans u ∧ u.cps.planned ∧ u.cps.holdNote = false ∧ u.ts.tracks = s.ts.tracks
        ∧ u.pt.pieces = s.pt.pieces ∧ endsAs .sawRelease s u .sawRelease .none (enc1 u.cps.saw.code ++ encFlag false) .none)
    ∧ (s.cps.saw ≠ .fault → refusedAs .clearSawFault s .clearSawFault .aborted .none)
    ∧ (s.cps.saw = .fault → s.cps.holdNote = true → endsAs .clearSawFault s (stopped held) .clearSawFault .none [] .none)
    ∧ (s.cps.saw = .fault → s.cps.holdNote = false → ∃ u, (ready (stopped dropped)).replans u ∧ u.cps.planned ∧ u.ts.tracks = s.ts.tracks
        ∧ u.pt.pieces = s.pt.pieces ∧ endsAs .clearSawFault s u .clearSawFault .none [] .none)

/-- The earliest stretch: from the ranges of the cut-out zones of the active strands that overlap the window, an open zone counting up to
the greatest end of the live entries of its cut-out conditions, unknown where one has none; it starts at the least start and ends at the
least coordinate by which every range that begins below it or closer than the minimum length above it has ended, unknown where there is
none. The plan: head and target with no stretch below; else the start of the stretch where a piece of the minimum fits before it; else its
end, at least the minimum and at most the maximum above the head, or the maximum where the end is unknown; moved up, and LATE, where the saw
could not be reached with its lead. No plan: TAIL in DRAINING at or above the tail, COUNT at the last cut number. With lengths in order and
a minimum above 0 (R96, R98), a plan that is not late gives a piece of at least the minimum and at most the maximum length, wherever the
first stretch lies; a late one lies where the saw can just be reached with its lead. (TAIL is the reason shown where COUNT holds as well:
log 18. The range of an open zone whose live entries all end at or below its start counts, though it is empty: log 63.) -/
def Obligations.PlanKeepsPieceLengths : Prop :=
  (∀ s : State, 0 < s.activeTemplate.minLen →
    let g := s.activeTemplate
    let cuts := fun (z : Zone) (c : Cond) => hasCond z.conds c = true ∧
      (c = .nose ∨ c = .tailBand ∨ c = .weld ∨ c = .stop ∨ hasCond g.cutOut c = true)
    let reaches := fun (st : Strand) (z : Zone) (e : Option Coord) => match z.stop?, e with
      | some y, _ => e = some y
      | none, none => ∃ c, cuts z c ∧ (s.rc.future[st]).end? c = none
      | none, some m => (∃ c, cuts z c ∧ (s.rc.future[st]).end? c = some m)
          ∧ ∀ c, cuts z c → ∃ y, (s.rc.future[st]).end? c = some y ∧ y ≤ m
    let range := fun (a : Coord) (e : Option Coord) => ∃ (st : Strand) (z : Zone), st.val < s.rc.active ∧ z ∈ s.track st
      ∧ (∃ c, cuts z c) ∧ z.start = a ∧ reaches st z e ∧ a ≤ s.head + g.maxLen ∧ ∀ y, e = some y → s.head < y
    let done := fun (x : Coord) => ∀ a e, range a e → a < x + g.minLen → ∃ y, e = some y ∧ y ≤ x
    (s.earliest = none ↔ ∀ a e, ¬ range a e)
    ∧ ∀ r, s.earliest = some r → (∃ e, range r.z0 e) ∧ (∀ a e, range a e → r.z0 ≤ a)
        ∧ (∀ x, r.z1 = some x → done x ∧ ∀ y, r.z0 ≤ y → done y → x ≤ y)
        ∧ (r.z1 = none → ∀ y, r.z0 ≤ y → ¬ done y))
  ∧ (∀ s : State,
    let g := s.activeTemplate
    let h := s.head
    let p := match s.earliest with
      | none => h + g.target
      | some r => if h + g.target ≤ r.z0 then h + g.target else if h + g.minLen ≤ r.z0 then r.z0
          else match r.z1 with
            | some e => min (max e (h + g.minLen)) (h + g.maxLen)
            | none => h + g.maxLen
    let reach := s.tcu.L - s.line.cfg.dSAW + s.line.cfg.lead
    let late := decide (s.line.cfg.dSAW ≤ s.tcu.L ∧ p < reach)
    let q := if late then reach else p
    let atTail := s.rc.run = .draining ∧ (s.rc.tailReleased = true ∨ ∃ x, s.rc.tail = some x ∧ x ≤ q)
    (0 < g.minLen → (atTail → s.computePlan = .noPlan .tail)
      ∧ (¬ atTail → s.cps.cutCounter = 65534 → s.computePlan = .noPlan .count)
      ∧ (¬ atTail → s.cps.cutCounter ≠ 65534 → s.computePlan = .plan q late))) ∧
  ∀ (s : State) (p : Coord) (late : Bool), 0 < s.activeTemplate.minLen → s.activeTemplate.minLen ≤ s.activeTemplate.target →
    s.activeTemplate.target ≤ s.activeTemplate.maxLen → s.computePlan = .plan p late →
    (late = false → s.head + s.activeTemplate.minLen ≤ p ∧ p ≤ s.head + s.activeTemplate.maxLen)
    ∧ (late = true → s.line.cfg.dSAW ≤ s.tcu.L ∧ p = s.tcu.L - s.line.cfg.dSAW + s.line.cfg.lead)

/-- The GO threshold is judged in PLANNED at a rising edge of SAW-READY and at a travel event (the plan not late, the first stretch with a
known end): below the threshold the wait reason is none; at it, SAW with SAW-READY low, PIECES or POOL where a reservation is refused, and
else GO, with a slot of each kind set aside for every active strand and the cut timeout started; POOL-LOW is raised where that brings the
available zone slots to 16 or below, and only there. At a travel event in READY or PLANNED with a late plan or a first stretch of unknown
end the planner plans anew: no plan and READY, or the new plan, PLANNED, with the threshold judged against it. In every other case a travel
event changes nothing at the saw. (With no event waiting nothing happens: log 3. A plan made anew that gives none drops the wait reason: log
15. In DRAINING a plan that a judgement moves to or above the tail coordinate is kept: log 64.) -/
def Obligations.GoIsGivenAtTheThreshold : Prop :=
  ∀ s : State,
    let high := { s with pins := { s.pins with sawReady := true } }
    let u := { s with travel := { s.travel with cps := none } }
    let anew := s.cps.planLate = true ∨ ∃ r, s.earliest = some r ∧ r.z1 = none
    (s.cps.saw = .planned → ∃ t, exec .sawReadyRising s = .next t ∧ high.goJudged t)
    ∧ (s.travel.cps = none → exec .goThreshold s = .next s)
    ∧ (s.travel.cps.isSome = true →
        (s.cps.saw = .planned → ¬ anew → ∃ t, exec .goThreshold s = .next t ∧ u.goJudged t)
        ∧ (s.cps.saw ≠ .planned → s.cps.saw ≠ .ready ∨ ¬ anew → exec .goThreshold s = .next u)
        ∧ (s.cps.saw = .ready ∨ s.cps.saw = .planned → anew → ∃ t, exec .goThreshold s = .next t ∧ u.replans t))

/-- A rising edge of SAW-READY leaves RETURN for READY, where the saw plans: it holds the plan computed at that moment, PLANNED, with the
threshold judged, or stays READY with the reason (the wait reason dropped: log 15); and outside RETURN and PLANNED changes the level alone; a
falling edge changes the level alone. The cut timeout expires only in GO: FAULT, SAW-FAULT raised, the plan, the hold note and the
reservation kept, the timeout stopped. -/
def Obligations.SawReadyEdgesAndTimeout : Prop :=
  ∀ s : State,
    let high := { s with pins := { s.pins with sawReady := true } }
    (s.cps.saw = .return_ → ∃ t, exec .sawReadyRising s = .next t
        ∧ { high with cps := { s.cps with saw := .ready, wait := .none } }.replans t ∧ t.cps.planned
        ∧ t.ts.tracks = s.ts.tracks ∧ t.pt.pieces = s.pt.pieces)
    ∧ (s.cps.saw ≠ .return_ → s.cps.saw ≠ .planned → exec .sawReadyRising s = .next high)
    ∧ exec .sawReadyFalling s = .next { s with pins := { s.pins with sawReady := false } }
    ∧ (s.cps.saw = .go → exec .cutTimeoutExpiry s =
        .next ({ s with cps := { s.cps with saw := .fault, wait := .none, noPlan := .none, timeout := none } }.withCause .sawFault))
    ∧ (s.cps.saw ≠ .go → exec .cutTimeoutExpiry s = .next s)

/-- CUT-DONE always captures the strand puller and keeps the cut coordinate. It is stray without a cut coordinate, in RETURN and HELD, at
or below the head, at or above the end of an active track, or at the last cut number. In GO it is else recorded: the next cut number, one
new piece from the head to the cut for every active strand, the head at the cut; then HELD where the hold note is set, else RETURN, left
at once where SAW-READY is high.
In READY and PLANNED the cut is unplanned, LATE where the plan held was: without a piece slot for every active strand, or with no
place, it is not recorded and the saw goes to FAULT with SAW-FAULT; it is recorded where it fell if the pool grants the splits, else,
SHIFTED and with COARSE, at the nearest zone start that needs few enough; then RETURN, left at once where SAW-READY is high. RETURN is
left for READY, where the saw plans from the records as the cut leaves them. In FAULT
it is recorded LATE, with the reservation where one is held, else as an unplanned one, and the saw stays in FAULT. A set is born
ARRIVED under the head mark, else in TRANSIT, its number in the queue, or ARRIVED and LATE where the queue is full; the records sound,
the zones of its pieces, and those left above them, say of the metal what the tracks said; and Run Control drops the billets below the
lowest held coordinate. (Stray at or above
the end of the track of any active strand: log 38. A cut that cannot be recorded keeps its plan and drops the wait reason: log 15.) -/
def Obligations.CutDoneIsRecordedOrStray : Prop :=
  ∀ s : State,
    let p := s.tcu.puller
    let c := s.tcu.chan p
    let cut := if s.line.cfg.dSAW ≤ s.tcu.L then some (s.tcu.L - s.line.cfg.dSAW) else none
    let s1 := { s with tcu := s.tcu.onChan p fun _ => if c.enable then { c with capturePrev := c.capture, capture := c.count } else c,
                       cps := { s.cps with latestCapture := cut } }
    let plans := fun (t : State) (y : Coord) (late unplanned shifted : Bool) => ∃ v : State,
      s1.recordsCut v y late unplanned shifted ∧ v.replans t
      ∧ v.cps = { s1.cps with saw := .ready, plan := none, planLate := false, wait := .none, noPlan := .none,
                              timeout := if s.cps.saw = .go then none else s.cps.timeout, cutCounter := s.cps.cutCounter + 1,
                              lastCut := some (y, s.cps.cutCounter + 1) }
      ∧ v.ts.setAside = (if s.cps.saw = .go then 0 else s.ts.setAside) ∧ v.pt.setAside = (if s.cps.saw = .go then 0 else s.pt.setAside)
    let outside := fun (x : Coord) =>
      x ≤ s.head ∨ (∃ st : Strand, st.val < s.rc.active ∧ s.trackEnd st ≤ x) ∨ s.cps.cutCounter = 65534
    (cut = none ∨ s.cps.saw = .return_ ∨ s.cps.saw = .held → exec .cutDone s = .next (s1.withCause .stray))
    ∧ (∀ x, cut = some x → outside x → exec .cutDone s = .next (s1.withCause .stray))
    ∧ (∀ x, cut = some x → s.cps.saw = .go → ¬ outside x → ∃ t ps, exec .cutDone s = .next t
        ∧ t.tcu = s1.tcu ∧ t.line = s.line ∧ t.iu = s.iu ∧ t.tps = s.tps ∧ t.pins = s.pins ∧ t.travel = s.travel
        ∧ t.rc.run = s.rc.run ∧ t.rc.active = s.rc.active ∧ t.rc.future = s.rc.future ∧ t.rc.tail = s.rc.tail
        ∧ t.cps.cutCounter = s.cps.cutCounter + 1 ∧ t.cps.lastCut = some (x, s.cps.cutCounter + 1)
        ∧ t.cps.latestCapture = some x ∧ t.cps.holdNote = s.cps.holdNote
        ∧ t.pt.pieces = s.pt.pieces ++ ps ∧ ps.map (·.strand) = s.activeStrands
        ∧ (∀ q ∈ ps, q.head = s.head ∧ q.tail = x ∧ q.cutNumber = s.cps.cutCounter + 1 ∧ q.unplanned = false
            ∧ q.shifted = false ∧ q.tailFlag = false)
        ∧ (∀ st : Strand, t.ts.first[st] = if st.val < s.rc.active then x else s.ts.first[st])
        ∧ (s.cps.holdNote = true → t.cps.saw = .held) ∧ (s.cps.holdNote = false → s.pins.sawReady = false → t.cps.saw = .return_)
        ∧ (s.cps.holdNote = true ∨ s.pins.sawReady = false →
            t.cps.plan = none ∧ t.cps.timeout = none ∧ t.ts.setAside = 0 ∧ t.pt.setAside = 0)
        ∧ (s.cps.holdNote = false → s.pins.sawReady = true → t.cps.planned ∧ plans t x s.cps.planLate false false)
        ∧ s1.recordsCut t x s.cps.planLate false false)
    ∧ (∀ x, cut = some x → ¬ outside x →
        let needs := fun (y : Coord) => (s.activeStrands.filter fun st => (s.track st).any (·.strictlyInside y)).length
        let granted := fun (y : Coord) => needs y ≤ s.ts.available - 16
        let startAt := fun (y : Coord) => (∃ st : Strand, st.val < s.rc.active ∧ ∃ z ∈ s.track st, z.start = y) ∧ s.head < y
          ∧ ∀ st : Strand, st.val < s.rc.active → y < s.trackEnd st
        let away := fun (y : Coord) => (y - x) + (x - y)
        let place := fun (y : Coord) => startAt y ∧ granted y
          ∧ ∀ y', startAt y' → granted y' → away y < away y' ∨ away y = away y' ∧ y ≤ y'
        let bare := s.pt.available < s.rc.active ∨ ¬ granted x ∧ ∀ y, startAt y → ¬ granted y
        let failed := ({ s1 with cps := { s1.cps with saw := .fault, wait := .none, noPlan := .none } } : State).withCause .sawFault
        let back := fun (t : State) (y : Coord) (shifted : Bool) =>
          (s.pins.sawReady = false → t.cps.saw = .return_ ∧ t.cps.plan = none ∧ t.cps.planLate = false)
          ∧ (s.pins.sawReady = true → t.cps.planned ∧ plans t y s.cps.planLate true shifted)
        let stays := fun (t : State) => t.cps.saw = .fault ∧ t.cps.plan = none ∧ t.cps.planLate = false
        let recorded := fun (late : Bool) (then_ : State → Coord → Bool → Prop) =>
          (¬ bare → granted x → ∃ t, exec .cutDone s = .next t ∧ s1.recordsCut t x late true false ∧ then_ t x false)
          ∧ (¬ bare → ¬ granted x → ∃ t y, exec .cutDone s = .next t ∧ place y ∧ s1.recordsCut t y late true true
              ∧ hasCause t.lp.alerts.pendingSet .coarse = true ∧ then_ t y true)
        (s.cps.saw = .ready ∨ s.cps.saw = .planned → (bare → exec .cutDone s = .next failed) ∧ recorded s.cps.planLate back)
        ∧ (s.cps.saw = .fault →
            (0 < s.pt.setAside → ∃ t, exec .cutDone s = .next t ∧ s1.recordsCut t x true false false ∧ stays t
              ∧ t.ts.setAside = 0 ∧ t.pt.setAside = 0)
            ∧ (s.pt.setAside = 0 → (bare → exec .cutDone s = .next failed) ∧ recorded true fun t _ _ => stays t)))

/-! ### Pieces (07) and markers (08) -/

/-- END-EYE: the oldest cut set in transit arrives, and ARRIVED is raised; with the queue empty while metal moves and some active strand
has a track, the head mark is set once; else the edge is stray. -/
def Obligations.EndEyeArrivesMarksOrStrays : Prop :=
  ∀ s : State,
    let open_ := (s.rc.run = .running ∨ s.rc.run = .dead ∨ s.rc.run = .draining)
      ∧ (∃ st : Strand, st.val < s.rc.active ∧ s.track st ≠ []) ∧ s.pt.headMark = false
    (∀ n rest, s.pt.queue = n :: rest → exec .endEye s =
      .next ({ s with pt := { s.pt with queue := rest,
                                        pieces := s.pt.pieces.map fun (p : Piece) => if p.cutNumber = n then { p with state := .arrived } else p } }.withCause
        .arrived))
    ∧ (s.pt.queue = [] → open_ → exec .endEye s = .next { s with pt := { s.pt with headMark := true } })
    ∧ (s.pt.queue = [] → ¬ open_ → exec .endEye s = .next (s.withCause .stray))

/-- RETIRE-PIECE: RANGE for a slot above 31, STALE for a key that is not current, ABORTED for a piece in transit; else the piece is freed
and the reply carries its key, cut number, strand, verdict and flags. REMOVE-CUT-SET: RANGE, NOT-FOUND, or the number leaves the queue and
every piece of the set is freed. The slots of the pieces and of their zones are free, their sequence numbers advanced; billets drop; then,
in the order the command names (log 5), Run Control takes the free, with the tail release that is due or the return to IDLE, and the Cut
Planner judges the GO threshold. Outside DRAINING no other piece changes: the pieces left are all that were not freed, as they were (no two
pieces with one key). (A tail release that follows drops the wait reason of a PLANNED saw: log 15. One follows a free even where the travel
event that brought L − d_SAW to the tail coordinate still waits: log 54. In DRAINING a plan that the judgement moves to or above the tail
coordinate is kept: log 64.) The record of a piece, byte by byte (section 10.6). A piece is read by its key (RANGE, STALE) or by a
coordinate of a strand (RANGE, the error of the address, NOT-FOUND); the records sound, it is the one in the table with that slot and
sequence number, or the one of the strand with head ≤ coordinate < tail. LIST-ARRIVED goes on in DATA-OUT, its blocks assembled at each
FETCH. -/
def Obligations.PiecesAreReadRetiredAndRemoved : Prop :=
  (∀ (s : State) (k : Key) (n : Nat) (o : FreeOrder), s.lp.port = .ready →
    (32 ≤ k.slot → refusedAs (.retirePiece k o) s .retirePiece .range .none)
    ∧ (k.slot < 32 → s.pieceByKey k = none → refusedAs (.retirePiece k o) s .retirePiece .stale .none)
    ∧ (∀ p, k.slot < 32 → s.pieceByKey k = some p → p.state = .transit → refusedAs (.retirePiece k o) s .retirePiece .aborted .none)
    ∧ (∀ p, k.slot < 32 → s.pieceByKey k = some p → p.state = .arrived → ∃ u, endsAs (.retirePiece k o) s u .retirePiece .none
          (encKey k ++ enc2 p.cutNumber ++ enc1 p.strand.val ++ enc1 p.verdict.code ++ enc1 p.flagByte) .none
        ∧ (s.taking (.retirePiece k o)).retires u [p] s.pt.queue o
        ∧ (s.rc.run ≠ .draining → u.pt.pieces = (s.pt.pieces.filter fun q => q.key != k) ∧ u.pt.queue = s.pt.queue
            ∧ u.ts.tracks = s.ts.tracks ∧ u.tcu = s.tcu ∧ u.rc.run = s.rc.run))
    ∧ (n < 1 ∨ 65535 < n → refusedAs (.removeCutSet n o) s .removeCutSet .range (.cut n))
    ∧ (1 ≤ n → n ≤ 65535 → n ∉ s.pt.queue → refusedAs (.removeCutSet n o) s .removeCutSet .notFound (.cut n))
    ∧ (1 ≤ n → n ≤ 65535 → n ∈ s.pt.queue → ∃ u, endsAs (.removeCutSet n o) s u .removeCutSet .none
          (enc2 n ++ enc1 (s.pt.pieces.filter fun q => q.cutNumber == n).length) .none
        ∧ (s.taking (.removeCutSet n o)).retires u (s.pt.pieces.filter fun q => q.cutNumber == n) (s.pt.queue.erase n) o
        ∧ (s.rc.run ≠ .draining → u.pt.queue = s.pt.queue.erase n ∧ (∀ q ∈ u.pt.pieces, q ∈ s.pt.pieces ∧ q.cutNumber ≠ n)
            ∧ ((s.pt.pieces.map (·.key)).Nodup → u.pt.pieces = s.pt.pieces.filter fun q => q.cutNumber != n)
            ∧ u.ts.tracks = s.ts.tracks ∧ u.tcu = s.tcu ∧ u.rc.run = s.rc.run)))
  ∧ (∀ p : Piece,
    let tu := fun (n : Nat) => encTU (n : Int)
    let share := fun (d : Disp) =>
      tu (((p.zones.filter fun z => decide (z.disposition = d)).map fun z => z.stop?.getD z.start - z.start).sum)
    let key := fun (o : Option Zone) => match o with | some z => encKey z.key | none => List.replicate 4 0#8
    encPiece p = encKey p.key ++ enc1 p.strand.val ++ enc1 (match p.state with | .transit => 0 | .arrived => 1) ++ enc1 p.verdict.code
      ++ enc1 p.flagByte ++ enc2 p.cutNumber ++ enc2 p.zones.length ++ tu p.head ++ tu p.tail ++ tu (p.tail - p.head)
      ++ key p.zones.head? ++ key p.zones.getLast? ++ share .accept ++ share .review ++ share .scrap
    ∧ p.flagByte = (if p.unplanned then 1 else 0) + (if p.late then 2 else 0) + (if p.shifted then 4 else 0)
      + (if p.tailFlag then 8 else 0) + (if p.amended then 16 else 0))
  ∧ (∀ (s : State) (k : Key) (st : Strand) (x : Coord) (p : Piece), s.recordsSound →
    (s.pieceByKey k = some p ↔ p ∈ s.pt.pieces ∧ p.key = k)
    ∧ (s.pieceAt st x = some p ↔ p ∈ s.pt.pieces ∧ p.strand = st ∧ p.head ≤ x ∧ x < p.tail))
  ∧ ∀ (s : State) (k : Key) (st : Strand) (a : Address), s.lp.port = .ready →
    (32 ≤ k.slot → refusedAs (.readPieceByKey k) s .readPiece .range .none)
    ∧ (k.slot < 32 → s.pieceByKey k = none → refusedAs (.readPieceByKey k) s .readPiece .stale .none)
    ∧ (∀ p, k.slot < 32 → s.pieceByKey k = some p → deliversAs (.readPieceByKey k) s s .readPiece (encPiece p))
    ∧ (∀ n, 4 ≤ n → refusedAs (.readPieceByCoordinate n a) s .readPiece .range .none)
    ∧ (∀ e, s.resolve a = .error e → refusedAs (.readPieceByCoordinate st.val a) s .readPiece e .none)
    ∧ (∀ x, s.resolve a = .ok x → s.pieceAt st x = none → refusedAs (.readPieceByCoordinate st.val a) s .readPiece .notFound .none)
    ∧ (∀ x p, s.resolve a = .ok x → s.pieceAt st x = some p →
        deliversAs (.readPieceByCoordinate st.val a) s s .readPiece (encPiece p))
    ∧ goesOnAs .listArrived s s (.dataOut (.arrived none 0))

/-- MARK-TEST in IDLE isolates one line at a level, or ends its isolation with the line OFF; it is refused with ABORTED in any other state
and with RANGE for a strand above 3, an isolate flag other than 0 and 1 or a level with no meaning. (Level code 0 is ON, in the request
and in the reply: log 11; the reply as four level bytes and four flags: log 49.) -/
def Obligations.MarkTestIsolatesOneLine : Prop :=
  ∀ (s : State) (st : Strand) (level : Nat), s.lp.port = .ready →
    let after := fun (l : MarkLine) => { s with swm := { s.swm with lines := s.swm.lines.set st l } }
    let reply := fun (x : State) =>
      x.swm.lines.toList.flatMap (fun l => enc1 (if l.on then 0 else 1)) ++ x.swm.lines.toList.flatMap (fun l => encFlag l.isolated)
    let off : MarkLine := { on := false, onPoint := none, isolated := false }
    let tested : MarkLine := { on := decide (level = 0), onPoint := none, isolated := true }
    (∀ n i, s.rc.run ≠ .idle → refusedAs (.markTest n i level) s .markTest .aborted .none)
    ∧ (∀ n i, s.rc.run = .idle → 4 ≤ n ∨ 2 ≤ i ∨ 2 ≤ level → refusedAs (.markTest n i level) s .markTest .range .none)
    ∧ (s.rc.run = .idle → level < 2 →
        endsAs (.markTest st.val 1 level) s (after tested) .markTest .none (reply (after tested)) .none
        ∧ endsAs (.markTest st.val 0 level) s (after off) .markTest .none (reply (after off)) .none)

/-- The Station Windows take the travel event that waits for them: on every active strand the window is kept while its zone holds the marker
point, and filled else, and the line is judged; an isolated line stays; in RUNNING, with the line enabled, a marked zone under the marker
point has its line ON. Inactive strands and all else stay. (With no event waiting nothing happens: log 3.)
The judgement of a line: isolated, it stays; not enabled or inactive, OFF; in IDLE, ARMED and DEAD by the idle policy; past the tail,
OFF; else a LAPSED window keeps it, a marked zone puts it ON from L, and an unmarked zone or an EMPTY window puts it OFF once the minimum
mark length is run and no marked zone follows within the minimum gap.
A hand-on at the windows: one whose zone was split, freed or cut LAPSES; one whose zone or next zone was written takes the records as
they stand; each is judged; the others stay.
A fill is EMPTY in IDLE, on an inactive strand, with L below d_MK, below the strand first coordinate and where no zone of the track holds
the marker point; else it takes that zone and the start, key and mark flag of the zone after it, absent where it is the last. A zone is
marked while its disposition is in ACTIVE's mark set, and not while ACTIVE is empty. (With no marker point no gap is bridged: log 35.) -/
def Obligations.TravelAtTheWindows : Prop :=
  (∀ s : State,
    (s.travel.swm = none → exec .windowRefill s = .next s)
    ∧ (s.travel.swm.isSome = true → s.rc.run = .idle → exec .windowRefill s = .next { s with travel := { s.travel with swm := none } })
    ∧ (s.travel.swm.isSome = true → s.rc.run ≠ .idle → ∃ t, exec .windowRefill s = .next t
        ∧ t = { s with travel := { s.travel with swm := none }, swm := t.swm }
        ∧ ∀ st : Strand,
            (s.rc.active ≤ st.val → t.swm.windows[st] = s.swm.windows[st] ∧ t.swm.lines[st] = s.swm.lines[st])
            ∧ (st.val < s.rc.active →
                ((s.swm.lines[st]).isolated = true → t.swm.lines[st] = s.swm.lines[st])
                ∧ (∀ z n x, s.swm.windows[st] = .valid z n → s.markerPoint = some x → z.holds x = true →
                    t.swm.windows[st] = s.swm.windows[st])
                ∧ ((∀ z n x, s.swm.windows[st] = .valid z n → s.markerPoint = some x → z.holds x = false) →
                    t.swm.windows[st] = s.fillOf st)
                ∧ t.swm.lines[st] = t.judged st s.swm.lines[st]
                ∧ (∀ z n, s.rc.run = .running → (s.swm.lines[st]).isolated = false → hasStrand s.line.cfg.markerEnables st = true →
                    t.swm.windows[st] = .valid z n → s.marks z = true → (t.swm.lines[st]).on = true))))
  ∧ (∀ (s : State) (st : Strand) (l : MarkLine),
    let off : MarkLine := { l with on := false, onPoint := none }
    let enabled := hasStrand s.line.cfg.markerEnables st = true ∧ st.val < s.rc.active
    let past := s.rc.tailReleased = true ∨ ∃ x t, s.markerPoint = some x ∧ s.rc.tail = some t ∧ t ≤ x
    let marking := s.rc.run = .running ∨ s.rc.run = .draining ∧ ¬ past
    let unmarked := fun (n : Option NextZone) =>
      let bridged := ∃ y x, n = some y ∧ s.markerPoint = some x ∧ y.marked = true ∧ y.start - x < s.line.cfg.minGap
      (l.on = false ∨ s.tcu.L < l.onPoint.getD 0 + s.line.cfg.minMark ∨ bridged → s.judged st l = l)
      ∧ (l.on = true → l.onPoint.getD 0 + s.line.cfg.minMark ≤ s.tcu.L → ¬ bridged → s.judged st l = off)
    (l.isolated = true → s.judged st l = l)
    ∧ (l.isolated = false → ¬ enabled → s.judged st l = off)
    ∧ (l.isolated = false → enabled →
        (s.rc.run = .idle ∨ s.rc.run = .armed ∨ s.rc.run = .dead →
          s.judged st l = if s.line.cfg.idlePolicy = .retain then l else off)
        ∧ (s.rc.run = .draining → past → s.judged st l = off)
        ∧ (marking →
            (s.swm.windows[st] = .lapsed → s.judged st l = l)
            ∧ (s.swm.windows[st] = .empty → unmarked none)
            ∧ ∀ z n, s.swm.windows[st] = .valid z n →
                (s.marks z = true → s.judged st l = if l.on = true then l else { l with on := true, onPoint := some s.tcu.L })
                ∧ (s.marks z = false → unmarked n))))
  ∧ ∀ (s : State) (ch : Changes) (st : Strand),
    let t := s.hitAll ch
    let w := s.swm.windows[st]
    t = { s with swm := t.swm }
    ∧ ((∀ z n, w ≠ .valid z n) → t.swm.windows[st] = w ∧ t.swm.lines[st] = s.swm.lines[st])
    ∧ (∀ z n, w = .valid z n →
        let next := ∃ y, n = some y ∧ (y.key ∈ ch.gone ∨ y.key ∈ ch.written)
        (z.key ∈ ch.gone → t.swm.windows[st] = .lapsed ∧ t.swm.lines[st] = t.judged st s.swm.lines[st])
        ∧ (∀ y, z.key ∉ ch.gone → z.key ∈ ch.written → (s.track st).find? (fun y => y.key == z.key) = some y →
            t.swm.windows[st] = .valid y (s.nextRecord st z.key) ∧ t.swm.lines[st] = t.judged st s.swm.lines[st])
        ∧ (z.key ∉ ch.gone → z.key ∉ ch.written → next →
            t.swm.windows[st] = .valid z (s.nextRecord st z.key) ∧ t.swm.lines[st] = t.judged st s.swm.lines[st])
        ∧ (z.key ∉ ch.gone → z.key ∉ ch.written → ¬ next → t.swm.windows[st] = w ∧ t.swm.lines[st] = s.swm.lines[st]))
  ∧ ∀ (s : State) (st : Strand),
    let here := s.tcu.L - s.line.cfg.dMK
    let under := fun (z : Zone) => z.start ≤ here ∧ ∀ e, z.stop? = some e → here < e
    let record := fun (z : Zone) => ({ start := z.start, key := z.key, marked := s.marks z } : NextZone)
    (s.rc.run = .idle ∨ s.rc.active ≤ st.val ∨ s.tcu.L < s.line.cfg.dMK ∨ here < s.ts.first[st] ∨ (∀ z ∈ s.track st, ¬ under z) →
      s.fillOf st = .empty)
    ∧ (∀ l z r, s.rc.run ≠ .idle → st.val < s.rc.active → s.line.cfg.dMK ≤ s.tcu.L → s.ts.first[st] ≤ here →
        s.track st = l ++ z :: r → under z → (∀ y ∈ l, ¬ under y) → s.fillOf st = .valid z (s.nextRecord st z.key))
    ∧ (∀ l z r, s.track st = l ++ z :: r → (∀ y ∈ l, y.key ≠ z.key) → s.nextRecord st z.key = r.head?.map record)
    ∧ (s.tps.active = none → ∀ z, s.marks z = false)
    ∧ ∀ g z, s.tps.active = some g → s.marks z = g.template.markSet.getLsbD (match z.disposition with | .accept => 0 | .review => 1 | .scrap => 2)

/-! ### Zones: disposition, claims, lookups, holds (03, 09) -/

/-- Disposition: the override where there is one; else SCRAP for END, NOSE, WELD, STOP or a SCRAP severity; else REVIEW for a REVIEW
severity, HELD or GAP; else ACCEPT. A verdict is SCRAP where no zone is ACCEPT, else REVIEW where some zone is REVIEW, else PARTIAL where
some is SCRAP, else PRIME. A finding added to a zone: one of its station and item is replaced where the new one deviates more, and stays
else; with none it joins at the end of fewer than four; in a full list it takes the place of the earliest of the smallest deviation where
it deviates more, and truncated is set either way. A findings list keeps at most four findings. -/
def Obligations.DispositionAndVerdictRules : Prop :=
  (∀ (z : Zone) (d : Disp), z.override = some d → z.disposition = d)
  ∧ (∀ z : Zone, z.override = none →
      let bad := hasCond z.conds .tailBand = true ∨ hasCond z.conds .nose = true ∨ hasCond z.conds .weld = true
        ∨ hasCond z.conds .stop = true ∨ z.severity = .scrap
      let doubt := z.severity = .review ∨ hasCond z.conds .held = true ∨ hasCond z.conds .gap = true
      (bad → z.disposition = .scrap) ∧ (¬ bad → doubt → z.disposition = .review) ∧ (¬ bad → ¬ doubt → z.disposition = .accept))
  ∧ (∀ zs : List Zone,
      ((∀ z ∈ zs, z.disposition ≠ .accept) → verdictOf zs = .scrap)
      ∧ ((∃ z ∈ zs, z.disposition = .accept) →
          ((∃ z ∈ zs, z.disposition = .review) → verdictOf zs = .review)
          ∧ ((∀ z ∈ zs, z.disposition ≠ .review) → (∃ z ∈ zs, z.disposition = .scrap) → verdictOf zs = .partialV)
          ∧ ((∀ z ∈ zs, z.disposition = .accept) → verdictOf zs = .prime)))
  ∧ (∀ (z : Zone) (f : Finding), z.findings.length ≤ 4 → (z.addFinding f).findings.length ≤ 4)
  ∧ ∀ (z : Zone) (f g : Finding) (l r : List Finding),
      let same := fun (h : Finding) => h.station = f.station ∧ h.item = f.item
      let put := if g.dev.natAbs < f.dev.natAbs then l ++ f :: r else z.findings
      (z.findings = l ++ g :: r → (∀ h ∈ l, ¬ same h) → same g → z.addFinding f = { z with findings := put })
      ∧ ((∀ h ∈ z.findings, ¬ same h) → z.findings.length < 4 → z.addFinding f = { z with findings := z.findings ++ [f] })
      ∧ ((∀ h ∈ z.findings, ¬ same h) → 4 ≤ z.findings.length → z.findings = l ++ g :: r →
          (∀ h ∈ l, g.dev.natAbs < h.dev.natAbs) → (∀ h ∈ r, g.dev.natAbs ≤ h.dev.natAbs) →
          z.addFinding f = { z with findings := put, truncated := true })

/-- A claim applied to a list of zones that follow one another without a gap, splits, marks and merges included, leaves zones that follow one
another over the same range without a gap, whether its takes are granted or not.
Every step keeps the records sound: each of the 1,024 zone slots and 32 piece slots is free or held once, a held one by its current
sequence number; every active track runs without a gap from the common first coordinate to its open zone, or to the tail coordinate in
DRAINING; the zones of every piece run from head to tail, and its verdict is theirs; and the slots set aside are those of the reservation.
Every step keeps the VALID windows at the records as they stand. A free returns the slot and advances its sequence number. A take is granted
above 16 available slots, a mandatory one above none, one for a cut from the slots set aside; it gives a free slot with its sequence number,
and POOL-LOW is raised exactly where it brings the available count from 17 or above to 16 or below. -/
def Obligations.ClaimKeepsZonesContiguous : Prop :=
  (∀ (c : Claim) (y1 y2 a : Coord) (e : Option Coord) (zs : List Zone) (w : Work),
    covers a e zs → covers a e (c.applyList y1 y2 zs w).1)
  ∧ (∀ s t : State, s.recordsSound → step s = .next t → t.recordsSound)
  ∧ (∀ s t : State, s.recordsSound → s.windowsCurrent → step s = .next t → t.windowsCurrent)
  ∧ ∀ (s : State) (k : Key),
      (k.slot < 1024 → k.slot ∈ (s.freeZone k).ts.free
        ∧ (s.freeZone k).ts.seqs[k.slot]? = (s.ts.seqs[k.slot]?).map fun n => n + 1)
      ∧ (k.slot < 32 → k.slot ∈ (s.freePieceSlot k).pt.free
        ∧ (s.freePieceSlot k).pt.seqs[k.slot]? = (s.pt.seqs[k.slot]?).map fun n => n + 1)
      ∧ ∀ kind : TakeKind,
        let granted := match kind with
          | .nonMandatory => 17 ≤ s.ts.available
          | .mandatory => 1 ≤ s.ts.available
          | .cut => 1 ≤ s.ts.setAside ∧ 1 ≤ s.ts.free.length
        (s.takeZone kind = none ↔ ¬ granted)
        ∧ ∀ t, s.takeZone kind = some (k, t) → k.slot ∈ s.ts.free ∧ k.seq = (s.ts.seqs[k.slot]?).getD 0
            ∧ t.ts = { s.ts with free := s.ts.free.erase k.slot, setAside := if kind = .cut then s.ts.setAside - 1 else s.ts.setAside }
            ∧ t.lp = if 17 ≤ s.ts.available ∧ t.ts.available ≤ 16 then (s.withCause .poolLow).lp else s.lp

/-- FIND-ZONE, READ-ZONES and WALK-ZONES: strand, counts and address are checked in that order, an inactive strand has no zone, and a
coordinate in no zone is refused naming it (NOT-FOUND; STALE for a continuation of a walk); else the zone's record is delivered, or
READ-ZONES goes on from the coordinate. A walk counts the open zone as reaching without limit, a look-up only below U (log 55). The
continuation of a walk is the zone's end, absent for an open zone, at the tail coordinate in DRAINING and at the highest tail where the
track is empty. The zone record, byte by byte, 72 in all, and the block that carries records (section 10.6). -/
def Obligations.ZonesAreLookedUp : Prop :=
  (∀ (z : Zone) (seen : Coord), z.findings.length ≤ 4 →
    let tu := fun (n : Nat) => encTU (n : Int)
    let finding := fun (f : Finding) =>
      enc1 (match f.station with | .g0 => 0 | .g1 => 1 | .g2 => 2) ++ enc1 f.item ++ encSigned f.dev ++ tu f.loc
    let flag := fun (b : Bool) (n : Nat) => if b then n else 0
    encZone z seen = encKey z.key ++ enc1 z.strand.val
        ++ enc1 (match z.place with | .opened => 0 | .closed _ => 1 | .cut _ _ => 2) ++ [z.conds]
        ++ enc1 (match z.severity with | .none => 0 | .review => 1 | .scrap => 2)
        ++ enc1 (match z.override with | some .accept => 0 | some .review => 1 | some .scrap => 2 | none => 255)
        ++ enc1 (match z.disposition with | .accept => 0 | .review => 1 | .scrap => 2)
        ++ enc1 (([.tailBand, .nose, .weld, .stop, .dim, .surf, .held, .gap] : List Cond).findIdx (hasCond z.conds))
        ++ enc1 z.generation ++ enc2 z.billet
        ++ enc1 (flag z.stop?.isSome 1 + flag z.piece?.isSome 2 + flag z.truncated 4) ++ enc1 z.findings.length
        ++ tu z.start ++ tu (z.stop?.getD 0) ++ tu seen
        ++ (match z.piece? with | some p => encKey p | none => List.replicate 4 0#8)
        ++ z.findings.flatMap finding ++ List.replicate (10 * (4 - z.findings.length)) 0#8
    ∧ (encZone z seen).length = 72)
  ∧ (∀ (s : State) (rs : List (List Byte)), s.zoneBlock rs = encTU (s.tcu.L : Int) ++ enc1 rs.length ++ rs.flatten)
  ∧ (∀ (s : State) (st : Strand) (z : Zone),
    let metalEnds := fun (e : Coord) => s.rc.run = .draining ∧ s.rc.tail = some e ∨ s.track st = [] ∧ e = s.metalEnd st
    (z.stop? = none → s.continuation st z = none)
    ∧ ∀ e, z.stop? = some e → (metalEnds e → s.continuation st z = none) ∧ (¬ metalEnds e → s.continuation st z = some e))
  ∧ (∀ (s : State) (st : Strand) (x : Coord) (z : Zone), s.recordsSound →
    let stands := z ∈ s.track st ∨ ∃ p ∈ s.pt.pieces, p.strand = st ∧ z ∈ p.zones
    let within := z.start ≤ x ∧ ∀ e, z.stop? = some e → x < e
    (s.walkZone st x = some z ↔ stands ∧ within)
    ∧ (s.heldZone st x = some z ↔ stands ∧ within ∧ (z.stop? = none → x < max s.tcu.L z.start))) ∧
  ∀ (s : State) (st : Strand) (a : Address) (count block : Nat), s.lp.port = .ready →
    let sizes := 1 ≤ count ∧ count ≤ 1024 ∧ 1 ≤ block ∧ block ≤ 16
    (∀ n w, 4 ≤ n → refusedAs (.findZone n a) s .findZone .range .none ∧ refusedAs (.readZones n a count block) s .readZones .range .none
      ∧ refusedAs (.walkZones n w) s .walkZones .range .none)
    ∧ (¬ sizes → refusedAs (.readZones st.val a count block) s .readZones .range .none)
    ∧ (∀ e, s.resolve a = .error e → refusedAs (.findZone st.val a) s .findZone e .none
        ∧ (sizes → refusedAs (.readZones st.val a count block) s .readZones e .none)
        ∧ refusedAs (.walkZones st.val (.address a)) s .walkZones e .none)
    ∧ (∀ n, refusedAs (.walkZones st.val (.unknown n)) s .walkZones .range .none)
    ∧ (∀ x, s.resolve a = .ok x →
        (s.rc.active ≤ st.val → refusedAs (.findZone st.val a) s .findZone .notFound .none
          ∧ (sizes → refusedAs (.readZones st.val a count block) s .readZones .notFound .none)
          ∧ refusedAs (.walkZones st.val (.address a)) s .walkZones .notFound .none)
        ∧ (st.val < s.rc.active →
            (s.heldZone st x = none → refusedAs (.findZone st.val a) s .findZone .notFound (.coordinate x)
              ∧ (sizes → refusedAs (.readZones st.val a count block) s .readZones .notFound (.coordinate x)))
            ∧ (∀ z, s.heldZone st x = some z →
                deliversAs (.findZone st.val a) s s .findZone (s.zoneBlock [encZone z (max z.start x)])
                ∧ (sizes → goesOnAs (.readZones st.val a count block) s s
                    (.dataOut (.zones { strand := st, count := count, block := block, q := x, delivered := 0 }))))
            ∧ (s.walkZone st x = none → refusedAs (.walkZones st.val (.address a)) s .walkZones .notFound (.coordinate x))
            ∧ (∀ z, s.walkZone st x = some z → deliversAs (.walkZones st.val (.address a)) s s .walkZones
                (s.zoneBlock [encZone z (max z.start x)] ++ encOptTU (s.continuation st z)))))
    ∧ (∀ q, st.val < s.rc.active → q ≤ 4294967295 →
        (s.walkZone st q = none → refusedAs (.walkZones st.val (.continue_ q)) s .walkZones .stale (.coordinate q))
        ∧ (∀ z, s.walkZone st q = some z → deliversAs (.walkZones st.val (.continue_ q)) s s .walkZones
            (s.zoneBlock [encZone z (max z.start q)] ++ encOptTU (s.continuation st z))))
    ∧ (∀ q, 4294967295 < q → refusedAs (.walkZones st.val (.continue_ q)) s .walkZones .range .none)
    ∧ ∀ q, s.rc.active ≤ st.val → q ≤ 4294967295 → refusedAs (.walkZones st.val (.continue_ q)) s .walkZones .notFound .none

/-- HOLD-SPAN and RELEASE-HOLD: the checks of the span; then the HELD future entry where the span reaches above the end of a track that ends
in an open zone (made or extended by a hold; removed, shortened or left by a release, which is refused with RANGE where the entry reaches
above the span), and the claim on the metal held, both as the order named has them (log 5). The records change, and of the die run that one
entry; where it changes the saw plans anew, and its plan is then that of the records (no live entry ending at or below the end of its track:
log 17). The records sound, all metal held in the span ends in HELD zones under a hold, and an entry made leaves an open zone that is HELD;
under a release, with a slot for every edge, the metal held in the span loses HELD alone and the rest says what it said (below L, where an
entry is removed, with its boundary), and an entry removed leaves an open zone without HELD; a release that leaves the entry and finds no
HELD zone in the span changes nothing; other strands stay, and pieces have the verdict of their zones, AMENDED where it changes. An address
is resolved to one coordinate, or refused with RANGE or, for a billet that is not in the table, NOT-FOUND; the checks of a span are made in
their order: ABORTED in IDLE, the strand, the two addresses, an inactive strand, the order of the two. (Effect codes: log 12. Extended,
where the entry stays as it was: log 43. A plan made anew that gives none drops the wait reason: log 15. Nothing comes between the two
parts: log 62.) -/
def Obligations.HoldsAndReleases : Prop :=
  (∀ (s : State) (n : Nat) (v : Int),
    let c := s.line.cfg
    let station := fun (code d : Nat) =>
      let x := (s.tcu.L : Int) - d + v
      let bad := v < -8388607 ∨ 8388607 < v ∨ s.line.valid = false ∧ code ≠ 0 ∨ x < 0 ∨ (s.tcu.L : Int) < x
      (bad → s.resolve (.station code v) = .error .range) ∧ (¬ bad → s.resolve (.station code v) = .ok x.toNat)
    (n ≤ 4294967295 → s.resolve (.abs n) = .ok n) ∧ (4294967295 < n → s.resolve (.abs n) = .error .range)
    ∧ station 0 0 ∧ station 1 c.dG0 ∧ station 2 c.dG1 ∧ station 3 c.dG2 ∧ station 4 c.dMK ∧ station 5 c.dSAW
    ∧ (6 ≤ n → s.resolve (.station n v) = .error .range) ∧ s.resolve (.unknown n) = .error .range)
  ∧ (∀ (s : State) (o n : Nat),
    let found := s.rc.billets.find? fun b => b.ordinal == o
    (o < 1 ∨ 65535 < o ∨ 4294967295 < n → s.resolve (.billet o n) = .error .range)
    ∧ (1 ≤ o → o ≤ 65535 → n ≤ 4294967295 →
        (found = none → s.resolve (.billet o n) = .error .notFound)
        ∧ ∀ b, found = some b → s.resolve (.billet o n) = if 4294967295 < b.start + n then .error .range else .ok (b.start + n)))
  ∧ (∀ (s : State) (n : Nat) (a b : Address),
    let check := s.checkSpan { strand := n, first := a, second := b }
    (s.rc.run = .idle → check = .error .aborted)
    ∧ (s.rc.run ≠ .idle → 4 ≤ n → check = .error .range)
    ∧ ∀ st : Strand, s.rc.run ≠ .idle → n = st.val →
        (∀ e, s.resolve a = .error e → check = .error e)
        ∧ (∀ x1 e, s.resolve a = .ok x1 → s.resolve b = .error e → check = .error e)
        ∧ (∀ x1 x2, s.resolve a = .ok x1 → s.resolve b = .ok x2 →
            (s.rc.active ≤ n ∨ x2 ≤ x1 → check = .error .range)
            ∧ (n < s.rc.active → x1 < x2 → check = .ok (st, x1, x2)))) ∧
  ∀ (s : State) (n : Nat) (a b : Address) (o : SpanOrder), s.lp.port = .ready →
    (∀ e, s.checkSpan { strand := n, first := a, second := b } = .error e →
      refusedAs (.holdSpan n a b o) s .holdSpan e .none ∧ refusedAs (.releaseHold n a b o) s .releaseHold e .none)
    ∧ (∀ st x1 x2, s.checkSpan { strand := n, first := a, second := b } = .ok (st, x1, x2) →
        let f := s.rc.future[st]
        let ahead := (openStart? (s.track st)).isSome = true ∧ s.boundaryCoord st < x2
        let withHeld := fun (h : Option Coord) => { s with rc := { s.rc with future := s.rc.future.set st { f with held := h } } }
        let done := fun (c : Instr) (r : ReqName) (v : State) (h : Option Coord) (code : Nat) (marked : State → Prop) =>
          ∃ u, u = { v with lp := u.lp } ∧ u.lp.alerts = v.lp.alerts ∧ (withHeld h).onlyRecords u
            ∧ endsAs c s u r .none (encTU (x1 : Int) ++ encTU (x2 : Int) ++ enc1 code) .none
            ∧ (h ≠ f.held → (∃ p q : State, (withHeld h).onlyRecords p ∧ p.replans q ∧ q.onlyRecords u)
                ∧ (s.recordsSound → (∀ e ∈ f.ends, s.boundaryCoord st < e) → u.planStands))
            ∧ (s.recordsSound → marked u ∧ s.amends u ∧ ∀ st' : Strand, st' ≠ st → u.track st' = s.track st' ∧ u.piecesOf st' = s.piecesOf st')
        let opensHeld := fun (u : State) (b : Bool) =>
          ∃ z, (u.track st).getLast? = some z ∧ z.isOpen = true ∧ hasCond z.conds .held = b
        let holds := fun (h : Option Coord) (code : Nat) =>
          let c := Instr.holdSpan n a b o
          done c .holdSpan ((s.taking c).hold o st x1 x2) h code fun u =>
            (∀ x, x1 ≤ x → x < x2 → s.heldZone st x ≠ none → ∃ z, u.walkZone st x = some z ∧ hasCond z.conds .held = true)
            ∧ (code = 0 → opensHeld u true)
        let frees := fun (h : Option Coord) (code : Nat) =>
          let c := Instr.releaseHold n a b o
          done c .releaseHold ((s.taking c).release o st x1 x2) h code fun u =>
            (21 + 2 * ((s.piecesOf st).length + 1) ≤ s.ts.available →
              (∀ x z, (code = 1 → x < s.tcu.L) → s.heldZone st x = some z → (u.walkZone st x).map Zone.says =
                some (if x1 ≤ x ∧ x < x2 then { z with conds := dropCond z.conds .held }.says else z.says))
              ∧ (code = 1 → opensHeld u false))
            ∧ (code = 0 → (∀ x z, x1 ≤ x → x < x2 → s.heldZone st x = some z → hasCond z.conds .held = false) → u = { s with lp := u.lp })
        (ahead → holds (some (max (f.held.getD 0) x2)) (if f.held = none then 0 else 1))
        ∧ (¬ ahead → holds f.held 2)
        ∧ (¬ ahead ∨ f.held = none → frees f.held 0)
        ∧ (∀ h, ahead → f.held = some h →
            (x2 < h → refusedAs (.releaseHold n a b o) s .releaseHold .range (.coordinate x2))
            ∧ (h ≤ x2 → x1 ≤ s.boundaryCoord st → frees none 1)
            ∧ (h ≤ x2 → s.boundaryCoord st < x1 → x1 < h → frees (some x1) 2)
            ∧ (h ≤ x2 → s.boundaryCoord st < x1 → h ≤ x1 → frees f.held 0)))

/-- HOLD-SPANS: ABORTED in IDLE, RANGE outside 1 to 1,024 spans or 1 to 16 a block; else the port is DATA-IN. A span that fails its checks
ends the request with its index; one that passes is applied as a HOLD-SPAN is and counted, and the last one ends it with the count: the HELD
entry is made or extended where the span reaches above the track's end, with a plan of the records as they then stand (no live entry ending
at or below the end of its track: log 17), and, the records sound, all metal held in the span ends in HELD zones. (HOLD-SPANS-SPAN-APPLY
with nothing to apply does nothing: log 51. A plan made anew that gives none drops the wait reason: log 15. Nothing comes between the two
parts of a span: log 62. A span makes no REPLY, the PUT having been answered before it: log 61.) -/
def Obligations.HoldSpansAppliesSpanBySpan : Prop :=
  ∀ (s : State) (count block : Nat) (o : SpanOrder) (p : SpanPut) (sp : Span) (rest : List Span),
    let sizes := 1 ≤ count ∧ count ≤ 1024 ∧ 1 ≤ block ∧ block ≤ 16
    (s.lp.port = .ready →
      (s.rc.run = .idle → refusedAs (.holdSpans count block) s .holdSpans .aborted .none)
      ∧ (s.rc.run ≠ .idle → ¬ sizes → refusedAs (.holdSpans count block) s .holdSpans .range .none)
      ∧ (s.rc.run ≠ .idle → sizes →
          goesOnAs (.holdSpans count block) s s (.dataIn { count := count, block := block, next := 0, waiting := [] })))
    ∧ ((∀ q, s.lp.port ≠ .dataIn q) → exec (.holdSpansSpanApply o) s = .next s)
    ∧ (s.lp.port = .dataIn p → p.waiting = [] → exec (.holdSpansSpanApply o) s = .next s)
    ∧ (s.lp.port = .dataIn p → p.waiting = sp :: rest →
        (∀ e, s.checkSpan sp = .error e → exec (.holdSpansSpanApply o) s =
          .next { s with lp := s.lp.endedLater .holdSpans e [] (.span p.next) p.next })
        ∧ (∀ st x1 x2, s.checkSpan sp = .ok (st, x1, x2) → ∃ t u : State, exec (.holdSpansSpanApply o) s = .next t
            ∧ { s with rc := { s.rc with future := u.rc.future } }.onlyRecords u
            ∧ (∀ st' : Strand, st' ≠ st → u.rc.future[st'] = s.rc.future[st'])
            ∧ (u.rc.future ≠ s.rc.future → s.recordsSound → (∀ e ∈ (s.rc.future[st]).ends, s.boundaryCoord st < e) → u.planStands)
            ∧ u = s.hold o st x1 x2
            ∧ (let f := s.rc.future[st]
              let ahead := (openStart? (s.track st)).isSome = true ∧ s.boundaryCoord st < x2
              (ahead → u.rc.future[st] = { f with held := some (max (f.held.getD 0) x2) }) ∧ (¬ ahead → u.rc.future[st] = f))
            ∧ (s.recordsSound → ∀ x, x1 ≤ x → x < x2 → s.heldZone st x ≠ none →
                ∃ z, u.walkZone st x = some z ∧ hasCond z.conds .held = true)
            ∧ (p.next + 1 = p.count → t = { u with lp := u.lp.endedLater .holdSpans .none (enc2 p.count) .none 0 })
            ∧ (p.next + 1 ≠ p.count → t = { u with lp := { u.lp with port := .dataIn { p with next := p.next + 1, waiting := rest } } })))

/-- OVERRIDE: RANGE for a value or slot with no meaning, STALE for a key that is not current; else the records alone change, and the reply
carries the key and the disposition of the zone. A key is current where, the records sound, a zone of a track or of a piece has it, slot and
sequence number, and it names that zone. Where metal of the planner's window says otherwise than before, the saw plans anew (elsewhere it
may: log 17). The override is set: the records sound, the zone of the reply holds the start of the zone named, stands by the key of the
reply and has the override named, absent for CLEAR; over that zone the override alone changes, over all other metal nothing; the pieces have
the verdict of their zones, an ARRIVED one AMENDED where it changes. (A plan made anew that gives none drops the wait reason: log 15.) -/
def Obligations.OverrideChangesRecordsAlone : Prop :=
  ∀ (s : State) (k : Key) (v : Nat), s.lp.port = .ready →
    (s.recordsSound → ∀ z, s.zoneByKey k = some z ↔ z ∈ s.heldZones ∧ z.key = k)
    ∧ (4 ≤ v ∨ 1024 ≤ k.slot → refusedAs (.overrideZone k v) s .override .range .none)
    ∧ (v < 4 → k.slot < 1024 → s.zoneByKey k = none → refusedAs (.overrideZone k v) s .override .stale (.key k))
    ∧ (∀ z, v < 4 → k.slot < 1024 → s.zoneByKey k = some z →
        let o := match v with | 0 => some Disp.accept | 1 => some .review | 2 => some .scrap | _ => none
        ∃ u y, s.onlyRecords u ∧ (∃ w, s.changesThenPlans w u)
        ∧ endsAs (.overrideZone k v) s u .override .none (encKey y.key ++ enc1 y.disposition.code) .none
        ∧ (u.zoneByKey k = some y ∨ u.zoneByKey k = none)
        ∧ (s.recordsSound → s.amends u ∧ y.override = o ∧ u.zoneByKey y.key = some y ∧ y.strand = z.strand
            ∧ (z.stop? ≠ some z.start → y.holds z.start = true ∧ u.walkZone z.strand z.start = some y)
            ∧ ∀ (st : Strand) (x : Coord), (u.walkZone st x).map Zone.says =
                (s.walkZone st x).map fun w => if w.key = k then { w with override := o }.says else w.says))

/-- A condition claim changes the records alone: nothing for an empty range, ORPHAN and nothing else on an inactive strand. The records
sound, every coordinate of the range below future metal ends in a zone that has the condition and at least the severity; a removal leaves
all metal outside the range as it was; the other strands stay; ORPHAN is raised exactly where part of the range is not held; and with a slot
for every edge each coordinate of the range says what it said, marked, and the rest what it said. No two neighbours that meet in the marked
range, at the edge below it or at the edge above it then say the same of their metal (they have merged); a removal marks the zones that hold
HELD (log 58), and one that finds none in its range changes nothing, but that ORPHAN may be raised. A finding joins the marked zone that
holds its coordinate; no finding is lost but where truncated is set, and a zone that has merged with no other keeps those that lie in it.
Pieces have the verdict of their zones, AMENDED where it changes. The oldest claim a sender has handed is taken as one that arrives (log 4).
The records once changed, the saw plans anew wherever metal of its window says otherwise than before (elsewhere it may: log 17). POOL-LOW is
raised exactly where a split of the claim or the boundary brings the available count from 17 or above to 16 or below. A boundary does
nothing to a track with no open zone; else the track ends in an open zone with the sender's billet and generation and exactly its
conditions, or, where the take is refused, in the old one with the union of the conditions, COARSE pending; the other tracks stay. (A plan
made anew that gives none drops the wait reason: log 15.) -/
def Obligations.ClaimsAndBoundariesChangeRecords : Prop :=
  ∀ (s : State) (c : Claim) (f : Sender) (st : Strand) (b : Coord) (conds : CondSet) (billet gen : Nat) (commit : Bool),
    let bound := exec (.boundary st b conds billet gen commit) s
    let low := fun (t : State) => hasCause t.lp.alerts.pendingSet .poolLow
    (c.x2 ≤ c.x1 → exec (.conditionClaim (.arriving c)) s = .next s)
    ∧ (c.x1 < c.x2 → s.rc.active ≤ c.strand.val → exec (.conditionClaim (.arriving c)) s = .next (s.withCause .orphan))
    ∧ (c.x1 < c.x2 → c.strand.val < s.rc.active → ∃ t v, exec (.conditionClaim (.arriving c)) s = .next t ∧ s.onlyRecords t
        ∧ s.changesThenPlans v t
        ∧ (17 ≤ s.ts.available → v.ts.available ≤ 16 → low v = true)
        ∧ (17 + 2 * ((s.piecesOf c.strand).length + 1) ≤ s.ts.available → low v = low s)
        ∧ (s.recordsSound → s.piecesOf c.strand = [] →
            let y1 := max c.x1 (s.ts.first[c.strand])
            let y2 := min c.x2 (s.trackEnd c.strand)
            let splits := fun (y : Coord) => ∃ z ∈ s.track c.strand, z.start < y ∧ (∀ e, z.stop? = some e → y < e)
              ∧ match c.action with
                | .add k => hasCond z.conds k = false ∨ z.severity.rank < c.severity.rank
                | .removeHeld => hasCond z.conds .held = true
            (low v = true ↔ low s = true ∨ y1 < y2 ∧ (s.ts.available = 17 ∧ (splits y1 ∨ splits y2)
              ∨ s.ts.available = 18 ∧ splits y1 ∧ splits y2))))
    ∧ ((∀ h ∈ s.ts.handed, h.1 ≠ f) → exec (.conditionClaim (.handed f)) s = .next s)
    ∧ (c.x1 < c.x2 → c.strand.val < s.rc.active → s.recordsSound → ∃ t, exec (.conditionClaim (.arriving c)) s = .next t
        ∧ (∀ x z, c.reaches s x → s.walkZone c.strand x = some z → ∃ y, t.walkZone c.strand x = some y
            ∧ z.severity.rank ≤ y.severity.rank
            ∧ ∀ k, c.action = .add k → hasCond y.conds k = true ∧ c.severity.rank ≤ y.severity.rank)
        ∧ (∀ x, c.action = .removeHeld → x < c.x1 ∨ c.x2 ≤ x →
            (t.walkZone c.strand x).map Zone.says = (s.walkZone c.strand x).map Zone.says)
        ∧ (∀ st' : Strand, st' ≠ c.strand → t.track st' = s.track st' ∧ t.piecesOf st' = s.piecesOf st')
        ∧ ((∃ x, c.reaches s x ∧ s.heldZone c.strand x = none) → hasCause t.lp.alerts.pendingSet .orphan = true)
        ∧ ((∀ x, c.reaches s x → s.heldZone c.strand x ≠ none) →
            hasCause t.lp.alerts.pendingSet .orphan = hasCause s.lp.alerts.pendingSet .orphan)
        ∧ (16 + 2 * ((s.piecesOf c.strand).length + 1) ≤ s.ts.available → ∀ x,
            (c.reaches s x → (t.walkZone c.strand x).map Zone.says = (s.walkZone c.strand x).map c.saysAfter)
            ∧ (¬ c.reaches s x → (t.walkZone c.strand x).map Zone.says = (s.walkZone c.strand x).map Zone.says))
        ∧ s.amends t
        ∧ (c.action = .removeHeld → (∀ x z, c.reaches s x → s.walkZone c.strand x = some z → hasCond z.conds .held = false) →
            t = s ∨ t = s.withCause .orphan)
        ∧ (∀ (l l1 l2 : List Zone) (a b y : Zone) (x : Coord), l = t.track c.strand ∨ (∃ p ∈ t.piecesOf c.strand, l = p.zones) →
            l = l1 ++ a :: b :: l2 → c.reaches s x → y.holds x = true → (c.action = .removeHeld → hasCond y.conds .held = false
              ∧ ∃ w, s.walkZone c.strand x = some w ∧ hasCond w.conds .held = true) →
            y = a ∨ y = b ∧ (∀ w, s.walkZone c.strand x = some w → w.start ≤ b.start) → a.says ≠ b.says)
        ∧ (∀ (x : Coord) (w y : Zone), s.walkZone c.strand x = some w → t.walkZone c.strand x = some y →
            let joins := fun (f : Finding) => c.finding = some f ∧ c.action ≠ .removeHeld ∧ y.holds f.loc = true
              ∧ ∃ x', c.reaches s x' ∧ y.holds x' = true
            let kept := { y with findings := w.findings.filter fun g => y.holds g.loc, truncated := w.truncated }
            (w.truncated = true → y.truncated = true)
            ∧ (∀ f, f.loc = x → f ∈ w.findings ∨ (c.finding = some f ∧ c.action ≠ .removeHeld ∧ c.reaches s x) → y.truncated = true ∨ ∃ g ∈ y.findings,
                g.station = f.station ∧ g.item = f.item ∧ f.dev.natAbs ≤ g.dev.natAbs)
            ∧ ((∀ g ∈ w.findings, w.holds g.loc = true) → (∀ x', y.holds x' = true → w.holds x' = true) →
                (∀ f, joins f → y = kept.addFinding f) ∧ ((∀ f, ¬ joins f) → y = kept))))
    ∧ (∀ h, s.ts.handed.find? (fun h => h.1 == f) = some h → ∃ t, exec (.conditionClaim (.handed f)) s = .next t ∧ s.onlyRecords t
        ∧ t.ts.handed = s.ts.handed.erase h
        ∧ exec (.conditionClaim (.handed f)) s = exec (.conditionClaim (.arriving h.2)) { s with ts := { s.ts with handed := s.ts.handed.erase h } })
    ∧ (openStart? (s.track st) = none → bound = .next s)
    ∧ (∀ z, (s.track st).getLast? = some z → z.isOpen = true → ∃ t y v, bound = .next t ∧ s.onlyRecords t
        ∧ s.changesThenPlans v t ∧ (low v = true ↔ low s = true ∨ z.start < b ∧ s.ts.available = 17)
        ∧ (t.track st).getLast? = some y ∧ y.isOpen = true ∧ (∀ st' : Strand, st' ≠ st → t.track st' = s.track st')
        ∧ (z.start < b → s.ts.available = 0 → y.conds = z.conds ||| conds ∧ y.billet = z.billet ∧ y.key = z.key
            ∧ hasCause t.lp.alerts.pendingSet .coarse = true ∧ (commit = true → hasStrand t.tps.late st = true))
        ∧ (b ≤ z.start ∨ 0 < s.ts.available → y.conds = conds ∧ y.billet = billet ∧ y.generation = gen
            ∧ (y.start = max b z.start ∨ ∃ x ∈ s.track st, y.start = x.start)))

/-! ### Gauges (04) -/

/-- Frames on a gauge link: a start opens a frame; a framing error and an expiry end an open one with REFUSED. A completed frame is answered
REFUSED where its check fails, where no metal moves or where its content does not suit the link; FULL where the queue holds 16; else TAKEN,
and the report joins the queue with its tag. What the nine bytes report on each link, and what none do; the tag: L less distance and
latency of the station where that is not below 0, with the generation of the held zone of its strand there, absent in every other case;
the reference template, that of the generation where it is ACTIVE's or PREVIOUS's, else ACTIVE's; and whether it measures a feature at a
station. (Bytes that do not begin with 0xA5 do nothing: log 28.) -/
def Obligations.GaugeFramesAreAnswered : Prop :=
  ∀ (s : State) (g : Gauge) (f : List Byte),
    let l := s.iu.link g
    let put := fun (l : Link) => { s with iu := s.iu.onLink g fun _ => l }
    let moving := s.rc.run = .running ∨ s.rc.run = .dead ∨ s.rc.run = .draining
    let good := f.length = 9 ∧ f.drop 7 = enc2 (crc16 (f.take 7)).toNat
    exec (.gaugeFrameStart g) s = .next (put { l with frameOpen := true })
    ∧ (l.frameOpen = true → exec (.gaugeFramingError g) s = .next (put { l with frameOpen := false, answer := some .refused })
        ∧ exec (.gaugeFrameExpiry g) s = .next (put { l with frameOpen := false, answer := some .refused }))
    ∧ (l.frameOpen = false → exec (.gaugeFramingError g) s = .next s ∧ exec (.gaugeFrameExpiry g) s = .next s)
    ∧ (f.headD 0 ≠ 0xA5#8 → exec (.reportArrival g f) s = .next s)
    ∧ (f.headD 0 = 0xA5#8 → ¬ good ∨ ¬ moving ∨ s.reportOf g f = none →
        exec (.reportArrival g f) s = .next (put { l with frameOpen := false, answer := some .refused }))
    ∧ (∀ k, f.headD 0 = 0xA5#8 → good → moving → s.reportOf g f = some k →
        let r := s.tag g k
        let suits := ∀ st i v, k = .measure st i v → (s.referenceAt r.generation).measures g i = true
        (¬ suits → exec (.reportArrival g f) s = .next (put { l with frameOpen := false, answer := some .refused }))
        ∧ (suits → 16 ≤ l.queue.length → exec (.reportArrival g f) s =
            .next (put { l with frameOpen := false, answer := some .full }))
        ∧ (suits → l.queue.length < 16 → exec (.reportArrival g f) s =
            .next (put { l with frameOpen := false, answer := some .taken, queue := l.queue ++ [r] })))
    ∧ (f.length = 9 →
        let byte := fun (i : Nat) => (f.getD i 0).toNat
        let value : BitVec 24 := f.getD 4 0 ++ f.getD 5 0 ++ f.getD 6 0
        let noStrand := 4 ≤ byte 2 ∨ s.rc.active ≤ byte 2
        (∀ (st : Strand) (i : Fin 12), byte 1 = 0 → g ≠ .g1 → byte 2 = st.val → st.val < s.rc.active → byte 3 = i.val →
          s.reportOf g f = some (.measure st i value.toInt))
        ∧ (∀ (st : Strand) (i : Fin 8), byte 1 = 1 → g = .g1 → byte 2 = st.val → st.val < s.rc.active → byte 3 = i.val →
          1 ≤ value.toNat → value.toNat ≤ 100000 → s.reportOf g f = some (.flaw st i value.toNat))
        ∧ (byte 1 = 2 → s.reportOf g f = some .blind) ∧ (byte 1 = 3 → s.reportOf g f = some .seeing)
        ∧ (byte 1 = 0 ∧ (g = .g1 ∨ noStrand ∨ 12 ≤ byte 3)
            ∨ byte 1 = 1 ∧ (g ≠ .g1 ∨ noStrand ∨ 8 ≤ byte 3 ∨ value.toNat < 1 ∨ 100000 < value.toNat) ∨ 4 ≤ byte 1 →
          s.reportOf g f = none))
    ∧ (∀ k, let c := s.line.cfg
        let d := match g with | .g0 => c.dG0 + c.latG0 | .g1 => c.dG1 + c.latG1 | .g2 => c.dG2 + c.latG2
        let strand := match k with | .measure st _ _ => some st | .flaw st _ _ => some st | .blind => none | .seeing => none
        (s.tcu.L < d → s.tag g k = { kind := k, coord := none, generation := none })
        ∧ (d ≤ s.tcu.L →
            let generation := strand.bind fun st => (s.heldZone st (s.tcu.L - d)).map (·.generation)
            s.tag g k = { kind := k, coord := some (s.tcu.L - d), generation := generation }))
    ∧ (∀ a gen, s.tps.active = some a → s.referenceAt gen = (s.tps.ofGeneration gen).getD a.template)
    ∧ s.tps.ofGeneration none = none
    ∧ (∀ n, let of := fun (o : Option Governing) => (o.filter fun w => w.generation == n).map (·.template)
        s.tps.ofGeneration (some n) = (of s.tps.active).or (of s.tps.previous))
    ∧ ∀ (t : Template) (i : Fin 12), t.measures g i = true ↔
        ∃ x, t.features[i.val]? = some x ∧ (g = .g0 ∧ x.station = .g0 ∨ g = .g2 ∧ x.station = .g2)

/-- A tracker takes a sample: afresh where the generation is another's; IN, it counts the samples out of tolerance and at the n-th hands a
DIM range and goes OUT; OUT, it hands the range on from its end at each sample out, and goes IN at the m-th within. An evaluation takes the
oldest report of a queue, the claims its last one handed taken first: BLIND makes the station blind from its coverage marks and raises
BLIND; SEEING ends it, raises the marks and hands a GAP claim for each active strand the period covered; a sample with no coordinate or no
governing template raises ORPHAN; any other raises the coverage mark of its strand, a MEASURE of a defined feature goes to its tracker and
hands its DIM claim, and a FLAW hands a SURF claim unless its class is IGNORE. The coverage sweep, where metal moves, raises at every
station that is not blind the marks that lie more than the gap limit below its sweep point, and every mark of a station that is not swept,
and hands a GAP claim for each mark raised at a station that is; the sweep point is L less distance and latency, at most the tail coordinate
in DRAINING, and a dimensional station is swept where ACTIVE gives it a feature. Claims handed are taken within the event, or wait in order
(log 4); those of an earlier sweep that wait stay waiting (log 59). The port keeps all but the causes raised. At either event PREVIOUS is
released, and the commit coordinate absent, exactly where no strand is late, every tag point has reached the commit coordinate and no queued
report is of its generation; the Template Store stays otherwise. (With no report or no event waiting nothing happens: log 3. The marks of a
blind station with no feature stay: log 19.) -/
def Obligations.ReportsAreEvaluatedAndCoverageSwept : Prop :=
  (∀ (t : Tracker) (n m : Nat) (x : Sample),
    let u := if t.generation = some x.generation then t else { Tracker.fresh with generation := some x.generation }
    let here : Worst := { dev := x.dev, loc := x.c }
    let worse := fun (w : Option Worst) => match w with
      | some y => if y.dev.natAbs < x.dev.natAbs then here else y
      | none => here
    let first := if u.outRun = 0 then x.c else u.firstOut.getD x.c
    let worst := if u.outRun = 0 then here else worse u.worst
    let e := u.dimEnd.getD x.c
    (u.state = .within → x.out = false → t.take n m x =
      { tracker := { u with outRun := 0, firstOut := none, worst := none }, dim := none })
    ∧ (u.state = .within → x.out = true → u.outRun + 1 < n → t.take n m x =
      { tracker := { u with outRun := u.outRun + 1, firstOut := some first, worst := some worst }, dim := none })
    ∧ (u.state = .within → x.out = true → n ≤ u.outRun + 1 → t.take n m x =
      { tracker := { u with state := .out, outRun := 0, firstOut := none, worst := some worst, dimEnd := some (max first x.c),
                            inRun := 0, firstClose := none },
        dim := some (min first x.c, max first x.c, worst) })
    ∧ (u.state = .out → x.out = true → t.take n m x =
      { tracker := { u with dimEnd := some (max e x.c), inRun := 0, firstClose := none, worst := some (worse u.worst) },
        dim := some (min e x.c, max e x.c, here) })
    ∧ (u.state = .out → x.out = false → u.inRun + 1 < m → t.take n m x =
      { tracker := { u with inRun := u.inRun + 1, firstClose := if u.inRun = 0 then some x.c else u.firstClose }, dim := none })
    ∧ (u.state = .out → x.out = false → m ≤ u.inRun + 1 → t.take n m x =
      { tracker := { Tracker.fresh with generation := some x.generation }, dim := none }))
  ∧ ∀ (s : State) (g : Gauge) (k : Taking),
    let l := s.iu.link g
    let s0 := ((s.ts.handed.filter fun h => h.1 == .link g).map (·.2)).foldl State.takeClaim
      { s with ts := { s.ts with handed := s.ts.handed.filter fun h => h.1 != .link g } }
    let hands := fun (a t : State) (by_ : Sender) (cs : List Claim) =>
      (k = .later → t = { a with ts := { a.ts with handed := a.ts.handed ++ cs.map fun c => (by_, c) }, iu := t.iu, tps := t.tps,
                                 travel := t.travel, lp := t.lp } ∧ causesGrow a.lp.alerts.pendingSet t.lp.alerts.pendingSet)
      ∧ (k = .atOnce → ∃ iu travel, let b := cs.foldl State.takeClaim { a with iu := iu, travel := travel }
          t = { b with iu := t.iu, tps := t.tps, lp := t.lp } ∧ causesGrow b.lp.alerts.pendingSet t.lp.alerts.pendingSet)
    let gap := fun (st : Strand) (x1 x2 : Coord) =>
      ({ strand := st, x1 := x1, x2 := x2, action := .add .gap, severity := .none, finding := none, mandatory := false } : Claim)
    let released := fun (t : State) =>
      let c := s.line.cfg
      let due := ∃ p x, s.tps.previous = some p ∧ s.tps.commitCoord = some x ∧ s.tps.late = 0 ∧ c.dG0 + c.latG0 + x ≤ s.tcu.L
        ∧ c.dG1 + c.latG1 + x ≤ s.tcu.L ∧ c.dG2 + c.latG2 + x ≤ s.tcu.L
        ∧ ∀ g', ∀ r ∈ (t.iu.link g').queue, r.generation ≠ some p.generation
      (due → t.tps = { s.tps with previous := none, commitCoord := none }) ∧ (¬ due → t.tps = s.tps)
    (let c := s.line.cfg
      let d := match g with | .g0 => c.dG0 + c.latG0 | .g1 => c.dG1 + c.latG1 | .g2 => c.dG2 + c.latG2
      (s.tcu.L < d → s.sweepPoint g = none)
      ∧ (∀ t, d ≤ s.tcu.L → s.rc.run = .draining → s.rc.tail = some t → s.sweepPoint g = some (min (s.tcu.L - d) t))
      ∧ (d ≤ s.tcu.L → s.rc.run ≠ .draining ∨ s.rc.tail = none → s.sweepPoint g = some (s.tcu.L - d))
      ∧ (s.sweeps g = true ↔ g = .g1 ∨ ∃ f ∈ s.activeTemplate.features, g = .g0 ∧ f.station = .g0 ∨ g = .g2 ∧ f.station = .g2))
    ∧ (l.queue = [] → exec (.reportEvaluation g k) s = .next s)
    ∧ (∀ r rest, l.queue = r :: rest → ∃ t, exec (.reportEvaluation g k) s = .next t ∧ released t ∧ s.portKept t
        ∧ t.tcu = s.tcu ∧ t.line = s.line ∧ t.rc = s.rc ∧ t.pins = s.pins ∧ t.travel = s.travel
        ∧ (t.iu.link g).queue = rest ∧ (∀ g', g' ≠ g → t.iu.link g' = s.iu.link g')
        ∧ (r.kind = .blind → l.blind = none → hasCause t.lp.alerts.pendingSet .blind = true ∧ (t.iu.link g).blind =
            some (Vector.ofFn fun st => if st.val < s.rc.active then some l.covered[st] else none))
        ∧ (r.kind = .blind → hands s0 t (.link g) [] ∧ t.iu.trackers = s.iu.trackers ∧ (t.iu.link g).covered = l.covered
            ∧ (l.blind.isSome = true → (t.iu.link g).blind = l.blind))
        ∧ (r.kind = .seeing → (t.iu.link g).blind = none ∧ t.iu.trackers = s.iu.trackers)
        ∧ (r.kind = .seeing → l.blind = none ∨ r.coord = none → hands s0 t (.link g) [] ∧ (t.iu.link g).covered = l.covered)
        ∧ (∀ b c, r.kind = .seeing → l.blind = some b → r.coord = some c →
            hands s0 t (.link g) (s.activeStrands.filterMap fun st => match b[st] with
              | some x => if x < c then some (gap st x c) else none
              | none => none)
            ∧ ∀ st : Strand, (t.iu.link g).covered[st] = if st.val < s.rc.active then max l.covered[st] c else l.covered[st])
        ∧ (∀ st, (∃ i v, r.kind = .measure st i v) ∨ (∃ i x, r.kind = .flaw st i x) →
            (r.coord = none ∨ s.tps.ofGeneration r.generation = none →
              hasCause t.lp.alerts.pendingSet .orphan = true ∧ (t.iu.link g).covered = l.covered ∧ t.iu.trackers = s.iu.trackers
              ∧ hands s0 t (.link g) [])
            ∧ (∀ c gen tpl, r.coord = some c → r.generation = some gen → s.tps.ofGeneration (some gen) = some tpl →
                (t.iu.link g).covered = l.covered.set st (max l.covered[st] c)))
        ∧ (∀ st i v c gen tpl, r.kind = .measure st i v → r.coord = some c → r.generation = some gen →
            s.tps.ofGeneration (some gen) = some tpl →
            (tpl.features[i.val]? = none → hands s0 t (.link g) [] ∧ t.iu.trackers = s.iu.trackers)
            ∧ ∀ f, tpl.features[i.val]? = some f →
                let dev := v - f.nominal
                let out := decide (dev < -(f.lower : Int)) || decide ((f.upper : Int) < dev)
                let a := ((s.iu.trackers[st])[i]).take tpl.nOut tpl.mIn { c := c, dev := dev, generation := gen, out := out }
                t.iu.trackers = s.iu.trackers.set st ((s.iu.trackers[st]).set i a.tracker)
                ∧ hands s0 t (.link g) (a.dim.toList.map fun d =>
                    { strand := st, x1 := d.1, x2 := d.2.1 + 1, action := .add .dim,
                      severity := match f.severity with | .review => .review | .scrap => .scrap,
                      finding := some { station := g, item := i.val, dev := d.2.2.dev, loc := d.2.2.loc }, mandatory := false }))
        ∧ (∀ st i x c gen tpl, r.kind = .flaw st i x → r.coord = some c → r.generation = some gen →
            s.tps.ofGeneration (some gen) = some tpl → t.iu.trackers = s.iu.trackers
            ∧ let surf := fun (v : Severity) =>
                ({ strand := st, x1 := c - x, x2 := c + 1, action := .add .surf, severity := v,
                   finding := some { station := .g1, item := i.val, dev := (x * 100 : Nat), loc := c }, mandatory := false } : Claim)
              hands s0 t (.link g) (match tpl.flaws[i] with | .ignore => [] | .review => [surf .review] | .scrap => [surf .scrap])))
    ∧ (s.travel.iu = none → exec (.coverageSweep k) s = .next s)
    ∧ (s.travel.iu.isSome = true → ∃ t, exec (.coverageSweep k) s = .next t ∧ released t ∧ s.portKept t
        ∧ t.tcu = s.tcu ∧ t.line = s.line ∧ t.rc = s.rc ∧ t.pins = s.pins ∧ t.travel = { s.travel with iu := none }
        ∧ t.iu.trackers = s.iu.trackers
        ∧ (∀ g' : Gauge, (t.iu.link g').queue = (s.iu.link g').queue ∧ (t.iu.link g').blind = (s.iu.link g').blind
            ∧ ∀ st : Strand, (t.iu.link g').covered[st] =
                match s.sweepPoint g' with
                | some p => if (s.iu.link g').blind = none ∧ s.rc.run.moving = true ∧ st.val < s.rc.active
                    ∧ (s.sweeps g' = false ∨ (s.iu.link g').covered[st] + s.line.cfg.gapLimit < p)
                  then max (s.iu.link g').covered[st] p else (s.iu.link g').covered[st]
                | none => (s.iu.link g').covered[st])
        ∧ hands s t .sweep (if s.rc.run.moving = true then [Gauge.g0, .g1, .g2].flatMap fun g' =>
            match s.sweepPoint g' with
            | some p => (s.activeStrands.filter fun st => decide ((s.iu.link g').blind = none ∧ s.sweeps g' = true
                ∧ (s.iu.link g').covered[st] + s.line.cfg.gapLimit < p)).map fun st => gap st ((s.iu.link g').covered[st] + 1) p
            | none => []
          else []))
end

