-- ==== Sys2Proof/Laws/State.lean ====
section
/-! SUPPORT. One lemma for each field of the state under each block update. -/

namespace Sys2Proof.Machine

@[simp] theorem State.onTcu_tcu (s : State) (f : Tcu → Tcu) : (s.onTcu f).tcu = f s.tcu := rfl
@[simp] theorem State.onTcu_line (s : State) (f : Tcu → Tcu) : (s.onTcu f).line = s.line := rfl
@[simp] theorem State.onTcu_travel (s : State) (f : Tcu → Tcu) : (s.onTcu f).travel = s.travel := rfl
@[simp] theorem State.onTcu_rc (s : State) (f : Tcu → Tcu) : (s.onTcu f).rc = s.rc := rfl
@[simp] theorem State.onTcu_ts (s : State) (f : Tcu → Tcu) : (s.onTcu f).ts = s.ts := rfl
@[simp] theorem State.onTcu_pt (s : State) (f : Tcu → Tcu) : (s.onTcu f).pt = s.pt := rfl
@[simp] theorem State.onTcu_iu (s : State) (f : Tcu → Tcu) : (s.onTcu f).iu = s.iu := rfl
@[simp] theorem State.onTcu_tps (s : State) (f : Tcu → Tcu) : (s.onTcu f).tps = s.tps := rfl
@[simp] theorem State.onTcu_cps (s : State) (f : Tcu → Tcu) : (s.onTcu f).cps = s.cps := rfl
@[simp] theorem State.onTcu_swm (s : State) (f : Tcu → Tcu) : (s.onTcu f).swm = s.swm := rfl
@[simp] theorem State.onTcu_lp (s : State) (f : Tcu → Tcu) : (s.onTcu f).lp = s.lp := rfl
@[simp] theorem State.onTcu_pins (s : State) (f : Tcu → Tcu) : (s.onTcu f).pins = s.pins := rfl
@[simp] theorem State.onTcu_choice (s : State) (f : Tcu → Tcu) : (s.onTcu f).choice = s.choice := rfl
@[simp] theorem State.onTcu_pending (s : State) (f : Tcu → Tcu) : (s.onTcu f).pending = s.pending := rfl

@[simp] theorem State.onLine_tcu (s : State) (f : Line → Line) : (s.onLine f).tcu = s.tcu := rfl
@[simp] theorem State.onLine_line (s : State) (f : Line → Line) : (s.onLine f).line = f s.line := rfl
@[simp] theorem State.onLine_travel (s : State) (f : Line → Line) : (s.onLine f).travel = s.travel := rfl
@[simp] theorem State.onLine_rc (s : State) (f : Line → Line) : (s.onLine f).rc = s.rc := rfl
@[simp] theorem State.onLine_ts (s : State) (f : Line → Line) : (s.onLine f).ts = s.ts := rfl
@[simp] theorem State.onLine_pt (s : State) (f : Line → Line) : (s.onLine f).pt = s.pt := rfl
@[simp] theorem State.onLine_iu (s : State) (f : Line → Line) : (s.onLine f).iu = s.iu := rfl
@[simp] theorem State.onLine_tps (s : State) (f : Line → Line) : (s.onLine f).tps = s.tps := rfl
@[simp] theorem State.onLine_cps (s : State) (f : Line → Line) : (s.onLine f).cps = s.cps := rfl
@[simp] theorem State.onLine_swm (s : State) (f : Line → Line) : (s.onLine f).swm = s.swm := rfl
@[simp] theorem State.onLine_lp (s : State) (f : Line → Line) : (s.onLine f).lp = s.lp := rfl
@[simp] theorem State.onLine_pins (s : State) (f : Line → Line) : (s.onLine f).pins = s.pins := rfl
@[simp] theorem State.onLine_choice (s : State) (f : Line → Line) : (s.onLine f).choice = s.choice := rfl
@[simp] theorem State.onLine_pending (s : State) (f : Line → Line) : (s.onLine f).pending = s.pending := rfl

@[simp] theorem State.onTravel_tcu (s : State) (f : Travel → Travel) : (s.onTravel f).tcu = s.tcu := rfl
@[simp] theorem State.onTravel_line (s : State) (f : Travel → Travel) : (s.onTravel f).line = s.line := rfl
@[simp] theorem State.onTravel_travel (s : State) (f : Travel → Travel) : (s.onTravel f).travel = f s.travel := rfl
@[simp] theorem State.onTravel_rc (s : State) (f : Travel → Travel) : (s.onTravel f).rc = s.rc := rfl
@[simp] theorem State.onTravel_ts (s : State) (f : Travel → Travel) : (s.onTravel f).ts = s.ts := rfl
@[simp] theorem State.onTravel_pt (s : State) (f : Travel → Travel) : (s.onTravel f).pt = s.pt := rfl
@[simp] theorem State.onTravel_iu (s : State) (f : Travel → Travel) : (s.onTravel f).iu = s.iu := rfl
@[simp] theorem State.onTravel_tps (s : State) (f : Travel → Travel) : (s.onTravel f).tps = s.tps := rfl
@[simp] theorem State.onTravel_cps (s : State) (f : Travel → Travel) : (s.onTravel f).cps = s.cps := rfl
@[simp] theorem State.onTravel_swm (s : State) (f : Travel → Travel) : (s.onTravel f).swm = s.swm := rfl
@[simp] theorem State.onTravel_lp (s : State) (f : Travel → Travel) : (s.onTravel f).lp = s.lp := rfl
@[simp] theorem State.onTravel_pins (s : State) (f : Travel → Travel) : (s.onTravel f).pins = s.pins := rfl
@[simp] theorem State.onTravel_choice (s : State) (f : Travel → Travel) : (s.onTravel f).choice = s.choice := rfl
@[simp] theorem State.onTravel_pending (s : State) (f : Travel → Travel) : (s.onTravel f).pending = s.pending := rfl

@[simp] theorem State.onRc_tcu (s : State) (f : Rc → Rc) : (s.onRc f).tcu = s.tcu := rfl
@[simp] theorem State.onRc_line (s : State) (f : Rc → Rc) : (s.onRc f).line = s.line := rfl
@[simp] theorem State.onRc_travel (s : State) (f : Rc → Rc) : (s.onRc f).travel = s.travel := rfl
@[simp] theorem State.onRc_rc (s : State) (f : Rc → Rc) : (s.onRc f).rc = f s.rc := rfl
@[simp] theorem State.onRc_ts (s : State) (f : Rc → Rc) : (s.onRc f).ts = s.ts := rfl
@[simp] theorem State.onRc_pt (s : State) (f : Rc → Rc) : (s.onRc f).pt = s.pt := rfl
@[simp] theorem State.onRc_iu (s : State) (f : Rc → Rc) : (s.onRc f).iu = s.iu := rfl
@[simp] theorem State.onRc_tps (s : State) (f : Rc → Rc) : (s.onRc f).tps = s.tps := rfl
@[simp] theorem State.onRc_cps (s : State) (f : Rc → Rc) : (s.onRc f).cps = s.cps := rfl
@[simp] theorem State.onRc_swm (s : State) (f : Rc → Rc) : (s.onRc f).swm = s.swm := rfl
@[simp] theorem State.onRc_lp (s : State) (f : Rc → Rc) : (s.onRc f).lp = s.lp := rfl
@[simp] theorem State.onRc_pins (s : State) (f : Rc → Rc) : (s.onRc f).pins = s.pins := rfl
@[simp] theorem State.onRc_choice (s : State) (f : Rc → Rc) : (s.onRc f).choice = s.choice := rfl
@[simp] theorem State.onRc_pending (s : State) (f : Rc → Rc) : (s.onRc f).pending = s.pending := rfl

@[simp] theorem State.onTs_tcu (s : State) (f : Ts → Ts) : (s.onTs f).tcu = s.tcu := rfl
@[simp] theorem State.onTs_line (s : State) (f : Ts → Ts) : (s.onTs f).line = s.line := rfl
@[simp] theorem State.onTs_travel (s : State) (f : Ts → Ts) : (s.onTs f).travel = s.travel := rfl
@[simp] theorem State.onTs_rc (s : State) (f : Ts → Ts) : (s.onTs f).rc = s.rc := rfl
@[simp] theorem State.onTs_ts (s : State) (f : Ts → Ts) : (s.onTs f).ts = f s.ts := rfl
@[simp] theorem State.onTs_pt (s : State) (f : Ts → Ts) : (s.onTs f).pt = s.pt := rfl
@[simp] theorem State.onTs_iu (s : State) (f : Ts → Ts) : (s.onTs f).iu = s.iu := rfl
@[simp] theorem State.onTs_tps (s : State) (f : Ts → Ts) : (s.onTs f).tps = s.tps := rfl
@[simp] theorem State.onTs_cps (s : State) (f : Ts → Ts) : (s.onTs f).cps = s.cps := rfl
@[simp] theorem State.onTs_swm (s : State) (f : Ts → Ts) : (s.onTs f).swm = s.swm := rfl
@[simp] theorem State.onTs_lp (s : State) (f : Ts → Ts) : (s.onTs f).lp = s.lp := rfl
@[simp] theorem State.onTs_pins (s : State) (f : Ts → Ts) : (s.onTs f).pins = s.pins := rfl
@[simp] theorem State.onTs_choice (s : State) (f : Ts → Ts) : (s.onTs f).choice = s.choice := rfl
@[simp] theorem State.onTs_pending (s : State) (f : Ts → Ts) : (s.onTs f).pending = s.pending := rfl

@[simp] theorem State.onPt_tcu (s : State) (f : Pt → Pt) : (s.onPt f).tcu = s.tcu := rfl
@[simp] theorem State.onPt_line (s : State) (f : Pt → Pt) : (s.onPt f).line = s.line := rfl
@[simp] theorem State.onPt_travel (s : State) (f : Pt → Pt) : (s.onPt f).travel = s.travel := rfl
@[simp] theorem State.onPt_rc (s : State) (f : Pt → Pt) : (s.onPt f).rc = s.rc := rfl
@[simp] theorem State.onPt_ts (s : State) (f : Pt → Pt) : (s.onPt f).ts = s.ts := rfl
@[simp] theorem State.onPt_pt (s : State) (f : Pt → Pt) : (s.onPt f).pt = f s.pt := rfl
@[simp] theorem State.onPt_iu (s : State) (f : Pt → Pt) : (s.onPt f).iu = s.iu := rfl
@[simp] theorem State.onPt_tps (s : State) (f : Pt → Pt) : (s.onPt f).tps = s.tps := rfl
@[simp] theorem State.onPt_cps (s : State) (f : Pt → Pt) : (s.onPt f).cps = s.cps := rfl
@[simp] theorem State.onPt_swm (s : State) (f : Pt → Pt) : (s.onPt f).swm = s.swm := rfl
@[simp] theorem State.onPt_lp (s : State) (f : Pt → Pt) : (s.onPt f).lp = s.lp := rfl
@[simp] theorem State.onPt_pins (s : State) (f : Pt → Pt) : (s.onPt f).pins = s.pins := rfl
@[simp] theorem State.onPt_choice (s : State) (f : Pt → Pt) : (s.onPt f).choice = s.choice := rfl
@[simp] theorem State.onPt_pending (s : State) (f : Pt → Pt) : (s.onPt f).pending = s.pending := rfl

@[simp] theorem State.onIu_tcu (s : State) (f : Iu → Iu) : (s.onIu f).tcu = s.tcu := rfl
@[simp] theorem State.onIu_line (s : State) (f : Iu → Iu) : (s.onIu f).line = s.line := rfl
@[simp] theorem State.onIu_travel (s : State) (f : Iu → Iu) : (s.onIu f).travel = s.travel := rfl
@[simp] theorem State.onIu_rc (s : State) (f : Iu → Iu) : (s.onIu f).rc = s.rc := rfl
@[simp] theorem State.onIu_ts (s : State) (f : Iu → Iu) : (s.onIu f).ts = s.ts := rfl
@[simp] theorem State.onIu_pt (s : State) (f : Iu → Iu) : (s.onIu f).pt = s.pt := rfl
@[simp] theorem State.onIu_iu (s : State) (f : Iu → Iu) : (s.onIu f).iu = f s.iu := rfl
@[simp] theorem State.onIu_tps (s : State) (f : Iu → Iu) : (s.onIu f).tps = s.tps := rfl
@[simp] theorem State.onIu_cps (s : State) (f : Iu → Iu) : (s.onIu f).cps = s.cps := rfl
@[simp] theorem State.onIu_swm (s : State) (f : Iu → Iu) : (s.onIu f).swm = s.swm := rfl
@[simp] theorem State.onIu_lp (s : State) (f : Iu → Iu) : (s.onIu f).lp = s.lp := rfl
@[simp] theorem State.onIu_pins (s : State) (f : Iu → Iu) : (s.onIu f).pins = s.pins := rfl
@[simp] theorem State.onIu_choice (s : State) (f : Iu → Iu) : (s.onIu f).choice = s.choice := rfl
@[simp] theorem State.onIu_pending (s : State) (f : Iu → Iu) : (s.onIu f).pending = s.pending := rfl

@[simp] theorem State.onTps_tcu (s : State) (f : Tps → Tps) : (s.onTps f).tcu = s.tcu := rfl
@[simp] theorem State.onTps_line (s : State) (f : Tps → Tps) : (s.onTps f).line = s.line := rfl
@[simp] theorem State.onTps_travel (s : State) (f : Tps → Tps) : (s.onTps f).travel = s.travel := rfl
@[simp] theorem State.onTps_rc (s : State) (f : Tps → Tps) : (s.onTps f).rc = s.rc := rfl
@[simp] theorem State.onTps_ts (s : State) (f : Tps → Tps) : (s.onTps f).ts = s.ts := rfl
@[simp] theorem State.onTps_pt (s : State) (f : Tps → Tps) : (s.onTps f).pt = s.pt := rfl
@[simp] theorem State.onTps_iu (s : State) (f : Tps → Tps) : (s.onTps f).iu = s.iu := rfl
@[simp] theorem State.onTps_tps (s : State) (f : Tps → Tps) : (s.onTps f).tps = f s.tps := rfl
@[simp] theorem State.onTps_cps (s : State) (f : Tps → Tps) : (s.onTps f).cps = s.cps := rfl
@[simp] theorem State.onTps_swm (s : State) (f : Tps → Tps) : (s.onTps f).swm = s.swm := rfl
@[simp] theorem State.onTps_lp (s : State) (f : Tps → Tps) : (s.onTps f).lp = s.lp := rfl
@[simp] theorem State.onTps_pins (s : State) (f : Tps → Tps) : (s.onTps f).pins = s.pins := rfl
@[simp] theorem State.onTps_choice (s : State) (f : Tps → Tps) : (s.onTps f).choice = s.choice := rfl
@[simp] theorem State.onTps_pending (s : State) (f : Tps → Tps) : (s.onTps f).pending = s.pending := rfl

@[simp] theorem State.onCps_tcu (s : State) (f : Cps → Cps) : (s.onCps f).tcu = s.tcu := rfl
@[simp] theorem State.onCps_line (s : State) (f : Cps → Cps) : (s.onCps f).line = s.line := rfl
@[simp] theorem State.onCps_travel (s : State) (f : Cps → Cps) : (s.onCps f).travel = s.travel := rfl
@[simp] theorem State.onCps_rc (s : State) (f : Cps → Cps) : (s.onCps f).rc = s.rc := rfl
@[simp] theorem State.onCps_ts (s : State) (f : Cps → Cps) : (s.onCps f).ts = s.ts := rfl
@[simp] theorem State.onCps_pt (s : State) (f : Cps → Cps) : (s.onCps f).pt = s.pt := rfl
@[simp] theorem State.onCps_iu (s : State) (f : Cps → Cps) : (s.onCps f).iu = s.iu := rfl
@[simp] theorem State.onCps_tps (s : State) (f : Cps → Cps) : (s.onCps f).tps = s.tps := rfl
@[simp] theorem State.onCps_cps (s : State) (f : Cps → Cps) : (s.onCps f).cps = f s.cps := rfl
@[simp] theorem State.onCps_swm (s : State) (f : Cps → Cps) : (s.onCps f).swm = s.swm := rfl
@[simp] theorem State.onCps_lp (s : State) (f : Cps → Cps) : (s.onCps f).lp = s.lp := rfl
@[simp] theorem State.onCps_pins (s : State) (f : Cps → Cps) : (s.onCps f).pins = s.pins := rfl
@[simp] theorem State.onCps_choice (s : State) (f : Cps → Cps) : (s.onCps f).choice = s.choice := rfl
@[simp] theorem State.onCps_pending (s : State) (f : Cps → Cps) : (s.onCps f).pending = s.pending := rfl

@[simp] theorem State.onSwm_tcu (s : State) (f : Swm → Swm) : (s.onSwm f).tcu = s.tcu := rfl
@[simp] theorem State.onSwm_line (s : State) (f : Swm → Swm) : (s.onSwm f).line = s.line := rfl
@[simp] theorem State.onSwm_travel (s : State) (f : Swm → Swm) : (s.onSwm f).travel = s.travel := rfl
@[simp] theorem State.onSwm_rc (s : State) (f : Swm → Swm) : (s.onSwm f).rc = s.rc := rfl
@[simp] theorem State.onSwm_ts (s : State) (f : Swm → Swm) : (s.onSwm f).ts = s.ts := rfl
@[simp] theorem State.onSwm_pt (s : State) (f : Swm → Swm) : (s.onSwm f).pt = s.pt := rfl
@[simp] theorem State.onSwm_iu (s : State) (f : Swm → Swm) : (s.onSwm f).iu = s.iu := rfl
@[simp] theorem State.onSwm_tps (s : State) (f : Swm → Swm) : (s.onSwm f).tps = s.tps := rfl
@[simp] theorem State.onSwm_cps (s : State) (f : Swm → Swm) : (s.onSwm f).cps = s.cps := rfl
@[simp] theorem State.onSwm_swm (s : State) (f : Swm → Swm) : (s.onSwm f).swm = f s.swm := rfl
@[simp] theorem State.onSwm_lp (s : State) (f : Swm → Swm) : (s.onSwm f).lp = s.lp := rfl
@[simp] theorem State.onSwm_pins (s : State) (f : Swm → Swm) : (s.onSwm f).pins = s.pins := rfl
@[simp] theorem State.onSwm_choice (s : State) (f : Swm → Swm) : (s.onSwm f).choice = s.choice := rfl
@[simp] theorem State.onSwm_pending (s : State) (f : Swm → Swm) : (s.onSwm f).pending = s.pending := rfl

@[simp] theorem State.onLp_tcu (s : State) (f : Lp → Lp) : (s.onLp f).tcu = s.tcu := rfl
@[simp] theorem State.onLp_line (s : State) (f : Lp → Lp) : (s.onLp f).line = s.line := rfl
@[simp] theorem State.onLp_travel (s : State) (f : Lp → Lp) : (s.onLp f).travel = s.travel := rfl
@[simp] theorem State.onLp_rc (s : State) (f : Lp → Lp) : (s.onLp f).rc = s.rc := rfl
@[simp] theorem State.onLp_ts (s : State) (f : Lp → Lp) : (s.onLp f).ts = s.ts := rfl
@[simp] theorem State.onLp_pt (s : State) (f : Lp → Lp) : (s.onLp f).pt = s.pt := rfl
@[simp] theorem State.onLp_iu (s : State) (f : Lp → Lp) : (s.onLp f).iu = s.iu := rfl
@[simp] theorem State.onLp_tps (s : State) (f : Lp → Lp) : (s.onLp f).tps = s.tps := rfl
@[simp] theorem State.onLp_cps (s : State) (f : Lp → Lp) : (s.onLp f).cps = s.cps := rfl
@[simp] theorem State.onLp_swm (s : State) (f : Lp → Lp) : (s.onLp f).swm = s.swm := rfl
@[simp] theorem State.onLp_lp (s : State) (f : Lp → Lp) : (s.onLp f).lp = f s.lp := rfl
@[simp] theorem State.onLp_pins (s : State) (f : Lp → Lp) : (s.onLp f).pins = s.pins := rfl
@[simp] theorem State.onLp_choice (s : State) (f : Lp → Lp) : (s.onLp f).choice = s.choice := rfl
@[simp] theorem State.onLp_pending (s : State) (f : Lp → Lp) : (s.onLp f).pending = s.pending := rfl

@[simp] theorem State.onPins_tcu (s : State) (f : Pins → Pins) : (s.onPins f).tcu = s.tcu := rfl
@[simp] theorem State.onPins_line (s : State) (f : Pins → Pins) : (s.onPins f).line = s.line := rfl
@[simp] theorem State.onPins_travel (s : State) (f : Pins → Pins) : (s.onPins f).travel = s.travel := rfl
@[simp] theorem State.onPins_rc (s : State) (f : Pins → Pins) : (s.onPins f).rc = s.rc := rfl
@[simp] theorem State.onPins_ts (s : State) (f : Pins → Pins) : (s.onPins f).ts = s.ts := rfl
@[simp] theorem State.onPins_pt (s : State) (f : Pins → Pins) : (s.onPins f).pt = s.pt := rfl
@[simp] theorem State.onPins_iu (s : State) (f : Pins → Pins) : (s.onPins f).iu = s.iu := rfl
@[simp] theorem State.onPins_tps (s : State) (f : Pins → Pins) : (s.onPins f).tps = s.tps := rfl
@[simp] theorem State.onPins_cps (s : State) (f : Pins → Pins) : (s.onPins f).cps = s.cps := rfl
@[simp] theorem State.onPins_swm (s : State) (f : Pins → Pins) : (s.onPins f).swm = s.swm := rfl
@[simp] theorem State.onPins_lp (s : State) (f : Pins → Pins) : (s.onPins f).lp = s.lp := rfl
@[simp] theorem State.onPins_pins (s : State) (f : Pins → Pins) : (s.onPins f).pins = f s.pins := rfl
@[simp] theorem State.onPins_choice (s : State) (f : Pins → Pins) : (s.onPins f).choice = s.choice := rfl
@[simp] theorem State.onPins_pending (s : State) (f : Pins → Pins) : (s.onPins f).pending = s.pending := rfl

@[simp] theorem State.onChoice_tcu (s : State) (f : Choice → Choice) : (s.onChoice f).tcu = s.tcu := rfl
@[simp] theorem State.onChoice_line (s : State) (f : Choice → Choice) : (s.onChoice f).line = s.line := rfl
@[simp] theorem State.onChoice_travel (s : State) (f : Choice → Choice) : (s.onChoice f).travel = s.travel := rfl
@[simp] theorem State.onChoice_rc (s : State) (f : Choice → Choice) : (s.onChoice f).rc = s.rc := rfl
@[simp] theorem State.onChoice_ts (s : State) (f : Choice → Choice) : (s.onChoice f).ts = s.ts := rfl
@[simp] theorem State.onChoice_pt (s : State) (f : Choice → Choice) : (s.onChoice f).pt = s.pt := rfl
@[simp] theorem State.onChoice_iu (s : State) (f : Choice → Choice) : (s.onChoice f).iu = s.iu := rfl
@[simp] theorem State.onChoice_tps (s : State) (f : Choice → Choice) : (s.onChoice f).tps = s.tps := rfl
@[simp] theorem State.onChoice_cps (s : State) (f : Choice → Choice) : (s.onChoice f).cps = s.cps := rfl
@[simp] theorem State.onChoice_swm (s : State) (f : Choice → Choice) : (s.onChoice f).swm = s.swm := rfl
@[simp] theorem State.onChoice_lp (s : State) (f : Choice → Choice) : (s.onChoice f).lp = s.lp := rfl
@[simp] theorem State.onChoice_pins (s : State) (f : Choice → Choice) : (s.onChoice f).pins = s.pins := rfl
@[simp] theorem State.onChoice_choice (s : State) (f : Choice → Choice) : (s.onChoice f).choice = f s.choice := rfl
@[simp] theorem State.onChoice_pending (s : State) (f : Choice → Choice) : (s.onChoice f).pending = s.pending := rfl

end Sys2Proof.Machine
end

