-- ==== Sys2Proof/Laws/Port.lean ====
section
/-! SUPPORT. What a request does at the Line Port, whatever it asks: taken or not, and how it ends. -/

namespace Sys2Proof.Machine

open Sys2Proof

/-! ### Alerts -/

theorem raise_eq (s : State) (c : AlertCause) :
    s.raise c = { s with lp := { s.lp with alerts := { s.lp.alerts with pendingSet := s.lp.alerts.pendingSet ||| causeMask c } } } := rfl

@[simp] theorem raise_tcu (s : State) (c : AlertCause) : (s.raise c).tcu = s.tcu := rfl
@[simp] theorem raise_line (s : State) (c : AlertCause) : (s.raise c).line = s.line := rfl
@[simp] theorem raise_travel (s : State) (c : AlertCause) : (s.raise c).travel = s.travel := rfl
@[simp] theorem raise_rc (s : State) (c : AlertCause) : (s.raise c).rc = s.rc := rfl
@[simp] theorem raise_ts (s : State) (c : AlertCause) : (s.raise c).ts = s.ts := rfl
@[simp] theorem raise_pt (s : State) (c : AlertCause) : (s.raise c).pt = s.pt := rfl
@[simp] theorem raise_iu (s : State) (c : AlertCause) : (s.raise c).iu = s.iu := rfl
@[simp] theorem raise_tps (s : State) (c : AlertCause) : (s.raise c).tps = s.tps := rfl
@[simp] theorem raise_cps (s : State) (c : AlertCause) : (s.raise c).cps = s.cps := rfl
@[simp] theorem raise_swm (s : State) (c : AlertCause) : (s.raise c).swm = s.swm := rfl
@[simp] theorem raise_pins (s : State) (c : AlertCause) : (s.raise c).pins = s.pins := rfl
@[simp] theorem raise_choice (s : State) (c : AlertCause) : (s.raise c).choice = s.choice := rfl
@[simp] theorem raise_pending (s : State) (c : AlertCause) : (s.raise c).pending = s.pending := rfl

/-! ### Replies and ends change the port alone (R196, R199) -/

theorem respond_eq (s : State) (e : ErrCode) (m : Bool) (d : List Byte) :
    s.respond e m d = { s with lp := { s.lp with reply := some (s.replyTo e m d) } } := rfl

theorem endRequest_eq (s : State) (n : ReqName) (e : ErrCode) (f : List Byte) (i : FaultItem) (d : Nat) :
    s.endRequest n e f i d =
      { s with lp := { s.lp with port := .ready, request := none, lastError := e, result := some { name := n, error := e, fields := f },
                                 fault := faultAfter s.lp.fault n e i d } } := rfl

theorem endLater_eq (s : State) (n : ReqName) (e : ErrCode) (f : List Byte) (i : FaultItem) (d : Nat) :
    s.endLater n e f i d = (s.endRequest n e f i d).raise .requestDone := rfl

theorem taking_eq (s : State) (c : Instr) : s.taking c = { s with lp := { s.lp with request := some c, result := none } } := rfl

/-! ### A REQUEST (R198) -/

/-- A REQUEST in READY is taken, and takes the course its rule gives. -/
theorem request_ready {s : State} (h : s.lp.port = .ready) (c : Instr) (n : ReqName) (f : State → Course) :
    s.request c n f = (f (s.taking c)).settle n := by
  unfold State.request
  rw [h]
  rfl

/-- A REQUEST in any other state is answered ABORTED and has no other effect. -/
theorem request_not_ready {s : State} (h : s.lp.port ≠ .ready) (c : Instr) (n : ReqName) (f : State → Course) :
    s.request c n f = s.respond .aborted false [] := by
  unfold State.request
  have : s.lp.port.isReady = false := by
    revert h
    cases s.lp.port <;> simp [PortState.isReady]
  simp [this]

/-- A request that ends at its taking: the port, and the REPLY with the result record (R198, R199). -/
theorem settle_ends (n : ReqName) (s : State) (e : ErrCode) (f : List Byte) (i : FaultItem) (d : Nat) :
    (Course.ends s e f i d).settle n =
      (s.endRequest n e f i d).respond .none false ({ name := n, error := e, fields := f : ResultRecord }).bytes := rfl

/-- A snapshot: the block stands in the transfer buffer, and the port is DATA-OUT (R198). -/
theorem settle_deliver (n : ReqName) (s : State) (b : List Byte) :
    (Course.deliver s b).settle n =
      (s.onLp fun p => { p with port := .dataOut (.snapshot n), buffer := b }).respond .none false [] := rfl

/-- A request that goes on (R198). -/
theorem settle_goesOn (n : ReqName) (s : State) (p : PortState) :
    (Course.goesOn s p).settle n = (s.onLp fun q => { q with port := p }).respond .none false [] := rfl

/-! ### A step -/

/-- The front of the queue runs with the queue's rest. -/
theorem step_cons {s : State} {c : Instr} {rest : List Instr} (h : s.pending = c :: rest) :
    step s = exec c { s with pending := rest } := by
  unfold step
  rw [h]

/-- An empty queue idles. -/
theorem step_nil {s : State} (h : s.pending = []) : step s = .next s.idle := by
  unfold step
  rw [h]

end Sys2Proof.Machine
end

