-- ==== Sys2Proof/Laws/Courses.lean ====
section
/-! SUPPORT. From the course a request's rule gives to what the statements say of it. -/

namespace Sys2Proof.Machine

open Sys2Proof

/-- A REQUEST taken in READY whose course ends at once. -/
theorem endsAs_of {c : Instr} {s u : State} {n : ReqName} {f : State → Course} {e : ErrCode} {fields : List Byte}
    {item : FaultItem} (h : s.lp.port = .ready) (hc : exec c s = .next (s.request c n f))
    (hf : f (s.taking c) = .ends u e fields item 0) : endsAs c s u n e fields item := by
  refine ⟨_, hc, ?_⟩
  rw [request_ready h, hf]
  exact ⟨rfl, rfl, rfl, rfl, rfl, rfl, rfl, rfl, rfl⟩

/-- A REQUEST refused at its taking. -/
theorem refusedAs_of {c : Instr} {s : State} {n : ReqName} {f : State → Course} {e : ErrCode} {item : FaultItem}
    (h : s.lp.port = .ready) (hc : exec c s = .next (s.request c n f)) (hf : f (s.taking c) = .refuseAt (s.taking c) e item) :
    refusedAs c s n e item := by
  refine ⟨_, hc, ?_⟩
  rw [request_ready h, hf]
  exact ⟨rfl, rfl, rfl, rfl, rfl, rfl, rfl, rfl, rfl⟩

/-- A REQUEST taken in READY that goes on. -/
theorem goesOnAs_of {c : Instr} {s u : State} {n : ReqName} {f : State → Course} {p : PortState} (h : s.lp.port = .ready)
    (hc : exec c s = .next (s.request c n f)) (hf : f (s.taking c) = .goesOn u p) (hq : u.lp.request = some c)
    (hr : u.lp.result = none) : goesOnAs c s u p := by
  refine ⟨_, hc, ?_⟩
  rw [request_ready h, hf]
  exact ⟨rfl, rfl, hq, hr, rfl, rfl, rfl, rfl, rfl⟩

/-- A REQUEST taken in READY that delivers a snapshot. -/
theorem deliversAs_of {c : Instr} {s u : State} {n : ReqName} {f : State → Course} {b : List Byte} (h : s.lp.port = .ready)
    (hc : exec c s = .next (s.request c n f)) (hf : f (s.taking c) = .deliver u b) (hq : u.lp.request = some c)
    (hr : u.lp.result = none) : deliversAs c s u n b := by
  refine ⟨_, hc, ?_⟩
  rw [request_ready h, hf]
  exact ⟨rfl, rfl, hq, rfl, hr, rfl, rfl, rfl, rfl⟩

/-- Only the port differs once a request is taken. -/
theorem taking_onlyPort (s : State) (c : Instr) : s.taking c = { s with lp := (s.taking c).lp } := rfl

end Sys2Proof.Machine
end

