-- ==== Sys2Proof/Laws/Frame.lean ====
section
/-! SUPPORT. What the shared operations leave as it was: the work on zones, windows, plans and pieces touches neither the travel counter, nor the line configuration, nor the Inspection Unit, nor the port but for its pending set. -/

namespace Sys2Proof

open Machine

namespace Machine

/-- What a piece keeps from its birth, but for its state (R145). -/
def Piece.fixed (p : Piece) : Key × Strand × Nat × Coord × Coord × PieceState × List Bool :=
  (p.key, p.strand, p.cutNumber, p.head, p.tail, p.state, [p.unplanned, p.late, p.shifted, p.tailFlag])

/-- The items of the Cut Planner that planning leaves: hold note, cut counter, last cut, latest capture (R120). -/
def Cps.lasting (c : Cps) : Bool × Nat × Option (Coord × Nat) × Option Coord := (c.holdNote, c.cutCounter, c.lastCut, c.latestCapture)

/-- `t` comes from `s` by work on the records: travel, configuration, inputs, waiting commands and the Inspection Unit are
unchanged, and the port is unchanged but for its pending set; of the Template Store only the late strands and the commit
coordinate may differ; the Piece Table keeps its queue, its head mark and what its pieces have from birth; no pending cause is
lost; the Cut Planner keeps its counter, its note and its last cut. -/
structure Kept (s t : State) : Prop where
  tcu : t.tcu = s.tcu
  line : t.line = s.line
  travel : t.travel = s.travel
  iu : t.iu = s.iu
  pins : t.pins = s.pins
  pending : t.pending = s.pending
  rc : t.rc = s.rc
  tps : t.tps = { s.tps with late := t.tps.late, commitCoord := t.tps.commitCoord }
  lp : t.lp = { s.lp with alerts := { s.lp.alerts with pendingSet := t.lp.alerts.pendingSet } }
  queue : t.pt.queue = s.pt.queue
  headMark : t.pt.headMark = s.pt.headMark
  grow : s.lp.alerts.pendingSet &&& t.lp.alerts.pendingSet = s.lp.alerts.pendingSet
  saw : t.cps.lasting = s.cps.lasting
  pieces : t.pt.pieces.map Piece.fixed = s.pt.pieces.map Piece.fixed

theorem and_grow {a b c : AlertSet} (h : a &&& b = a) (k : b &&& c = b) : a &&& c = a := by
  rw [← h, BitVec.and_assoc, k]

theorem Kept.refl (s : State) : Kept s s := ⟨rfl, rfl, rfl, rfl, rfl, rfl, rfl, rfl, rfl, rfl, rfl, BitVec.and_self, rfl, rfl⟩

theorem Kept.trans {a b c : State} (h : Kept a b) (k : Kept b c) : Kept a c :=
  ⟨k.tcu.trans h.tcu, k.line.trans h.line, k.travel.trans h.travel, k.iu.trans h.iu, k.pins.trans h.pins,
   k.pending.trans h.pending, k.rc.trans h.rc, by rw [k.tps, h.tps], by rw [k.lp, h.lp], k.queue.trans h.queue,
   k.headMark.trans h.headMark, and_grow h.grow k.grow, k.saw.trans h.saw, k.pieces.trans h.pieces⟩

/-- A fold of steps that each keep, keeps. -/
theorem Kept.foldl {α : Type} {f : State → α → State} (hf : ∀ s x, Kept s (f s x)) :
    ∀ (l : List α) (s : State), Kept s (l.foldl f s)
  | [], s => Kept.refl s
  | x :: l, s => (hf s x).trans (Kept.foldl hf l (f s x))

theorem Kept.ite {s a b : State} {p : Prop} [Decidable p] (ha : Kept s a) (hb : Kept s b) : Kept s (if p then a else b) := by
  split <;> assumption

theorem kept_onTs (s : State) (f : Ts → Ts) : Kept s (s.onTs f) := ⟨rfl, rfl, rfl, rfl, rfl, rfl, rfl, rfl, rfl, rfl, rfl, BitVec.and_self, rfl, rfl⟩

/-- A change of the Cut Planner that leaves its counter, note, last cut and latest capture keeps. -/
theorem kept_onCps (s : State) {f : Cps → Cps} (h : (f s.cps).lasting = s.cps.lasting) : Kept s (s.onCps f) :=
  ⟨rfl, rfl, rfl, rfl, rfl, rfl, rfl, rfl, rfl, rfl, rfl, BitVec.and_self, h, rfl⟩

theorem kept_onSwm (s : State) (f : Swm → Swm) : Kept s (s.onSwm f) := ⟨rfl, rfl, rfl, rfl, rfl, rfl, rfl, rfl, rfl, rfl, rfl, BitVec.and_self, rfl, rfl⟩
theorem kept_onChoice (s : State) (f : Choice → Choice) : Kept s (s.onChoice f) := ⟨rfl, rfl, rfl, rfl, rfl, rfl, rfl, rfl, rfl, rfl, rfl, BitVec.and_self, rfl, rfl⟩

/-- A change of the Piece Table's slots alone keeps. -/
theorem kept_onPt {s : State} {f : Pt → Pt} (h : (f s.pt).queue = s.pt.queue) (h' : (f s.pt).headMark = s.pt.headMark)
    (h'' : (f s.pt).pieces.map Piece.fixed = s.pt.pieces.map Piece.fixed) : Kept s (s.onPt f) :=
  ⟨rfl, rfl, rfl, rfl, rfl, rfl, rfl, rfl, rfl, h, h', BitVec.and_self, rfl, h''⟩

theorem grow_or (a b : AlertSet) : a &&& (a ||| b) = a := by
  ext i
  simp only [BitVec.getElem_and, BitVec.getElem_or]
  cases a[i] <;> simp

theorem kept_raise (s : State) (c : AlertCause) : Kept s (s.raise c) :=
  ⟨rfl, rfl, rfl, rfl, rfl, rfl, rfl, rfl, rfl, rfl, rfl, grow_or _ _, rfl, rfl⟩

theorem kept_raiseIf (s : State) (b : Bool) (c : AlertCause) : Kept s (s.raiseIf b c) :=
  Kept.ite (kept_raise s c) (Kept.refl s)

/-! ### Slots -/

theorem kept_dropChoice (s : State) : Kept s s.dropChoice := kept_onChoice s _

theorem kept_poolLow (s : State) (n : Nat) : Kept s (s.poolLow n) := kept_raiseIf s _ _

/-- Everything a take can do (R46): a granted take keeps, and gives the key of a slot of the free list. -/
theorem takeZone_some {s s1 : State} {k : TakeKind} {key : Key} (h : s.takeZone k = some (key, s1)) :
    s.ts.grants k = true ∧ key = s.takenKey ∧ Kept s s1 := by
  unfold State.takeZone at h
  split at h
  · next hg =>
    cases h
    exact ⟨hg, rfl, ((kept_dropChoice s).trans (kept_onTs _ _)).trans (kept_poolLow _ _)⟩
  · cases h

/-- A take that is refused changes nothing and is one that the pool does not grant (R46). -/
theorem takeZone_none {s : State} {k : TakeKind} : s.takeZone k = none ↔ s.ts.grants k = false := by
  unfold State.takeZone
  split <;> simp_all

theorem kept_freeZone (s : State) (k : Key) : Kept s (s.freeZone k) := kept_onTs s _

theorem kept_freeZones (s : State) (zs : List Zone) : Kept s (s.freeZones zs) :=
  Kept.foldl (f := fun s (z : Zone) => s.freeZone z.key) (fun s z => kept_freeZone s z.key) zs s

theorem kept_setTrack (s : State) (st : Strand) (zs : List Zone) : Kept s (s.setTrack st zs) := kept_onTs s _

theorem kept_setFirst (s : State) (st : Strand) (x : Coord) : Kept s (s.setFirst st x) := kept_onTs s _

theorem kept_setZonesAside (s : State) (n : Nat) : Kept s (s.setZonesAside n) := (kept_onTs s _).trans (kept_poolLow _ _)

theorem kept_takePiece (s : State) (b : Bool) : Kept s (s.takePiece b).2 :=
  (kept_dropChoice s).trans (b := s.dropChoice) ⟨rfl, rfl, rfl, rfl, rfl, rfl, rfl, rfl, rfl, rfl, rfl, BitVec.and_self, rfl, rfl⟩

theorem kept_freePieceSlot (s : State) (k : Key) : Kept s (s.freePieceSlot k) := kept_onPt rfl rfl rfl

theorem kept_returnReservation (s : State) : Kept s s.returnReservation := (kept_onTs s _).trans (kept_onPt rfl rfl rfl)

theorem kept_setPiece (s : State) (k : Key) {f : Piece → Piece} (h : ∀ q, (f q).fixed = q.fixed) : Kept s (s.setPiece k f) := by
  refine kept_onPt rfl rfl ?_
  rw [List.map_map]
  refine List.map_congr_left fun q _ => ?_
  simp only [Function.comp]
  split
  · exact h q
  · rfl

/-! ### Windows and lines (08) -/

theorem kept_setLine (s : State) (st : Strand) (l : MarkLine) : Kept s (s.setLine st l) := kept_onSwm s _

theorem kept_setWindow (s : State) (st : Strand) (w : Window) : Kept s (s.setWindow st w) := kept_onSwm s _

theorem kept_judgeLine (s : State) (st : Strand) : Kept s (s.judgeLine st) := kept_setLine s st _

theorem kept_judgeLines (s : State) : Kept s s.judgeLines := Kept.foldl kept_judgeLine strands s

theorem kept_hit (s : State) (ch : Changes) (st : Strand) : Kept s (s.hit ch st) := by
  unfold State.hit
  split
  · exact (kept_setWindow s st _).trans (kept_judgeLine _ st)
  · exact Kept.refl s

theorem kept_hitAll (s : State) (ch : Changes) : Kept s (s.hitAll ch) := Kept.foldl (fun s st => kept_hit s ch st) strands s

theorem kept_travelWindow (s : State) (st : Strand) : Kept s (s.travelWindow st) :=
  (Kept.ite (kept_setWindow s st _) (Kept.refl s)).trans (kept_judgeLine _ st)

theorem kept_darkMarkers (s : State) : Kept s s.darkMarkers := kept_onSwm s _

theorem kept_remark (s : State) : Kept s s.remark := by
  refine (Kept.foldl (fun s st => ?_) strands s).trans (kept_judgeLines _)
  split
  · exact kept_setWindow s st _
  · exact Kept.refl s
  · exact Kept.refl s

/-! ### The planner (06) -/

theorem kept_askReservation (s : State) : Kept s s.askReservation := by
  unfold State.askReservation
  split
  · exact kept_onCps s rfl
  · split
    · exact kept_onCps s rfl
    · exact ((kept_setZonesAside s _).trans (kept_onPt rfl rfl rfl)).trans (kept_onCps _ rfl)

theorem kept_movePlan (s : State) (p : Coord) : Kept s (s.movePlan p) := Kept.ite (kept_onCps s rfl) (Kept.refl s)

theorem kept_judgeGo (s : State) : Kept s s.judgeGo := by
  unfold State.judgeGo
  split
  · dsimp only
    split
    · split
      · exact (kept_movePlan s _).trans (kept_askReservation _)
      · exact (kept_movePlan s _).trans (kept_onCps _ rfl)
    · exact (kept_movePlan s _).trans (kept_onCps _ rfl)
  · exact Kept.refl s

theorem kept_replan (s : State) : Kept s s.replan := by
  unfold State.replan
  split
  · split
    · exact (kept_onCps s rfl).trans (kept_judgeGo _)
    · exact kept_onCps s rfl
  · exact Kept.refl s

theorem kept_sawToReady (s : State) : Kept s s.sawToReady := (kept_onCps s rfl).trans (kept_replan _)

theorem kept_sawToReturn (s : State) : Kept s s.sawToReturn := by
  unfold State.sawToReturn
  dsimp only
  split
  · exact (kept_onCps s rfl).trans (kept_sawToReady _)
  · exact kept_onCps s rfl

theorem kept_replanRange (s : State) (lo : Coord) (hi : Option Coord) : Kept s (s.replanRange lo hi) :=
  Kept.ite (kept_replan s) (Kept.refl s)

theorem kept_restSaw (s : State) : Kept s s.restSaw := (kept_returnReservation s).trans (kept_onCps _ rfl)

theorem kept_sawTravel (s : State) : Kept s s.sawTravel := by
  have h : Kept s (if s.cps.saw = .ready ∨ s.cps.saw = .planned then s.replan else s.judgeGo) := by
    split
    · exact kept_replan s
    · exact kept_judgeGo s
  unfold State.sawTravel
  generalize (s.cps.planLate || _) = b
  cases b
  · exact kept_judgeGo s
  · exact h

/-! ### Claims (03) -/

theorem kept_touch (w : Work) (z : Zone) : (w.touch z).s = w.s := rfl

@[simp] theorem edgeAt_s (w : Work) (y : Coord) : (w.edgeAt y).s = w.s := rfl

/-- Keeping from a state equal to the one asked about. -/
theorem kept_of_eq {a b c : State} (h : a = b) (k : Kept a c) : Kept b c := h ▸ k

/-- Noting a zone replaced changes no state. -/
@[simp] theorem replaced_s (w : Work) (a b : Zone) : (w.replaced a b).s = w.s := by
  unfold Work.replaced
  split <;> rfl

end Machine

theorem Claim.kept_edge (c : Claim) (upper : Bool) (y : Coord) (e : Edged) : Kept e.w.s (c.edge upper y e).w.s := by
  unfold Claim.edge
  split
  · exact Kept.refl _
  · split
    · exact Kept.refl _
    · split
      · next h => exact (takeZone_some h).2.2
      · exact kept_raise _ _

theorem Claim.kept_markAll (c : Claim) (keys : List Key) :
    ∀ (zs : List Zone) (w : Work), (c.markAll keys zs w).2.s = w.s
  | [], _ => rfl
  | z :: zs, w => by
    unfold Claim.markAll
    split
    · dsimp only
      rw [Claim.kept_markAll c keys zs, replaced_s]
    · exact Claim.kept_markAll c keys zs w

namespace Machine

theorem kept_merged (w : Work) (a b : Zone) : Kept w.s (w.merged a b).s := kept_freeZone w.s b.key

theorem kept_mergeScan : ∀ (zs : List Zone) (cur : Zone) (n : Nat) (w : Work), Kept w.s (mergeScan cur zs n w).2.s
  | [], _, _, w => Kept.refl w.s
  | z :: zs, cur, n, w => by
    unfold mergeScan
    split
    · exact (kept_merged w cur z).trans (kept_mergeScan zs _ _ _)
    · split
      · exact Kept.refl w.s
      · exact kept_mergeScan zs z _ w

theorem kept_mergePass (keys : List Key) (zs : List Zone) (w : Work) : Kept w.s (mergePass keys zs w).2.s := by
  unfold mergePass
  dsimp only
  split
  · split
    · exact Kept.refl w.s
    · exact kept_mergeScan _ _ _ w
  · exact Kept.refl w.s

end Machine

theorem Claim.kept_applyList (c : Claim) (y1 y2 : Coord) (zs : List Zone) (w : Work) :
    Kept w.s (c.applyList y1 y2 zs w).2.s := by
  unfold Claim.applyList
  dsimp only
  refine ((c.kept_edge false y1 { zs := zs, whole := [], w := w }).trans (c.kept_edge true y2 _)).trans ?_
  refine Kept.trans ?_ (kept_mergePass _ _ _)
  rw [Claim.kept_markAll]
  exact Kept.refl _

theorem Claim.kept_onPiece (c : Claim) (hi : Coord) (w : Work) (p : Piece) : Kept w.s (c.onPiece hi w p).s := by
  unfold Claim.onPiece
  dsimp only
  split
  · have h := c.kept_applyList (max c.x1 p.head) (min hi p.tail) p.zones { w with gone := [], written := [] }
    split
    · exact h.trans (kept_setPiece _ _ fun _ => rfl)
    · exact h
  · exact Kept.refl w.s

theorem Claim.kept_onTrack (c : Claim) (hi stop : Coord) (w : Work) : Kept w.s (c.onTrack hi stop w).s := by
  unfold Claim.onTrack
  dsimp only
  split
  · exact (c.kept_applyList _ _ _ w).trans (kept_setTrack _ _ _)
  · exact Kept.refl w.s

namespace Machine

theorem kept_refreshVerdict (s : State) (k : Key) : Kept s (s.refreshVerdict k) := by
  unfold State.refreshVerdict
  split
  · exact Kept.refl s
  · dsimp only
    split
    · exact Kept.refl s
    · refine Kept.trans ?_ (kept_raiseIf _ _ _)
      exact kept_setPiece s k fun _ => rfl

theorem kept_handOn (w : Work) : Kept w.s w.handOn := by
  unfold Work.handOn
  split
  · dsimp only
    have h := (kept_hitAll w.s { gone := w.gone, written := w.written }).trans
      (Kept.foldl kept_refreshVerdict w.pieces (w.s.hitAll { gone := w.gone, written := w.written }))
    split
    · exact h.trans (kept_replanRange _ _ _)
    · exact h
  · exact Kept.refl w.s

theorem kept_pieceFold (c : Claim) (hi : Coord) :
    ∀ (ps : List Piece) (w : Work), Kept w.s (ps.foldl (fun w p => c.onPiece hi w p) w).s
  | [], w => Kept.refl w.s
  | p :: ps, w => (c.kept_onPiece hi w p).trans (kept_pieceFold c hi ps (c.onPiece hi w p))

/-- A condition claim, taken whole, keeps (R59 to R66). -/
theorem kept_takeClaim (s : State) (c : Claim) : Kept s (s.takeClaim c) := by
  unfold State.takeClaim
  split
  · exact Kept.refl s
  · split
    · exact kept_raise s _
    · dsimp only
      refine Kept.trans ?_ (kept_handOn _)
      refine Kept.trans ?_ (c.kept_onTrack _ _ _)
      refine Kept.trans ?_ (kept_pieceFold c _ _ _)
      exact kept_raiseIf s _ _

theorem kept_takeClaims (s : State) (cs : List Claim) : Kept s (s.takeClaims cs) := Kept.foldl kept_takeClaim cs s

theorem kept_handClaims (s : State) (b : Sender) (t : Taking) (cs : List Claim) : Kept s (s.handClaims b t cs) := by
  cases t
  · exact kept_takeClaims s cs
  · unfold State.handClaims
    exact kept_onTs s _

theorem kept_takeHanded (s : State) (b : Sender) : Kept s (s.takeHanded b) := by
  unfold State.takeHanded
  split
  · exact (kept_onTs s _).trans (kept_takeClaim _ _)
  · exact Kept.refl s

theorem kept_takeAllHandedBy (s : State) (b : Sender) : Kept s (s.takeAllHandedBy b) := (kept_onTs s _).trans (kept_takeClaims _ _)

theorem kept_takeAllHanded (s : State) : Kept s s.takeAllHanded := (kept_onTs s _).trans (kept_takeClaims _ _)

theorem kept_clearLate (s : State) (st : Strand) (b : Coord) : Kept s (s.clearLate st b) := by
  unfold State.clearLate
  split
  · exact ⟨rfl, rfl, rfl, rfl, rfl, rfl, rfl, rfl, rfl, rfl, rfl, BitVec.and_self, rfl, rfl⟩
  · exact Kept.refl s

theorem kept_closeAndOpen (s : State) (st : Strand) (zs : List Zone) (z : Zone) (b : Coord) (n : NewZone) (k : Key) :
    Kept s (s.closeAndOpen st zs z b n k) := by
  unfold State.closeAndOpen
  dsimp only
  refine Kept.trans ?_ (kept_handOn _)
  exact ((kept_mergeScan _ _ 1 ((s.work.touch z).touch _)).trans (kept_setTrack _ _ _)).trans (kept_clearLate _ _ _)

theorem kept_reopen (s : State) (st : Strand) (zs : List Zone) (z : Zone) (n : NewZone) : Kept s (s.reopen st zs z n) := by
  unfold State.reopen
  dsimp only
  refine Kept.trans ?_ (kept_handOn _)
  refine Kept.trans (Kept.trans ?_ (kept_setTrack _ _ _)) (kept_clearLate _ _ _)
  split
  · exact kept_of_eq (replaced_s s.work z _) (kept_mergeScan _ _ 1 _)
  · dsimp only
    rw [replaced_s]
    exact Kept.refl s

theorem kept_coarseBoundary (s : State) (st : Strand) (zs : List Zone) (z : Zone) (n : NewZone) (commit : Bool) :
    Kept s (s.coarseBoundary st zs z n commit) := by
  unfold State.coarseBoundary
  dsimp only
  refine Kept.trans ?_ (kept_handOn _)
  rw [replaced_s]
  cases commit <;> exact ⟨rfl, rfl, rfl, rfl, rfl, rfl, rfl, rfl, rfl, rfl, rfl, grow_or _ _, rfl, rfl⟩

/-- A boundary keeps (R56 to R58). -/
theorem kept_boundary (s : State) (st : Strand) (b : Coord) (n : NewZone) (commit : Bool) :
    Kept s (s.boundary st b n commit) := by
  unfold State.boundary
  split
  · exact Kept.refl s
  · split
    · exact Kept.refl s
    · split
      · split
        · next h => exact (takeZone_some h).2.2.trans (kept_closeAndOpen _ _ _ _ _ _ _)
        · exact kept_coarseBoundary _ _ _ _ _ _
      · exact kept_reopen _ _ _ _ _

theorem kept_boundaryHere (s : State) (st : Strand) (commit : Bool) : Kept s (s.boundaryHere st commit) := kept_boundary _ _ _ _ _

theorem kept_tailClose (s : State) (st : Strand) (t : Coord) : Kept s (s.tailClose st t) := by
  unfold State.tailClose
  split
  · exact Kept.refl s
  · split
    · exact Kept.refl s
    · dsimp only
      split
      · refine Kept.trans ?_ (kept_handOn _)
        rw [kept_touch]
        exact Kept.trans (kept_setTrack s st _) (kept_clearLate _ st t)
      · refine Kept.trans ?_ (kept_handOn _)
        rw [kept_touch]
        exact Kept.trans (Kept.trans (kept_setTrack s st _) (kept_freeZone _ _)) (kept_clearLate _ st t)

theorem kept_applyOverride (s : State) (z : Zone) (v : Option Disp) : Kept s (s.applyOverride z v) := by
  unfold State.applyOverride
  have pass (zs : List Zone) := kept_of_eq (replaced_s s.work z { z with override := v }) (kept_mergePass [z.key] zs _)
  dsimp only
  split
  · split
    · refine Kept.trans ?_ (kept_handOn _)
      exact (pass _).trans (kept_setPiece _ _ fun _ => rfl)
    · exact Kept.refl s
  · refine Kept.trans ?_ (kept_handOn _)
    exact (pass _).trans (kept_setTrack _ _ _)

end Machine

end Sys2Proof
end

