-- ==== Sys2Proof/Laws/PerInstr.lean ====
section
/-! SUPPORT. The family Named, one lemma for each constructor: a command that carries a request name carries one of the catalogue (section 10.3), or one that the catalogue lacks. -/

namespace Sys2Proof.Laws.Named

open Sys2Proof Machine

/-- The request name of a command, where it has one, is in the catalogue, or it is a name that the catalogue lacks. -/
def Statement (c : Instr) : Prop := ∀ n, c.reqName = some n → n ∈ catalogue ∨ ∃ b, n = .other b

theorem catalogue_complete (n : ReqName) : n ∈ catalogue ∨ ∃ b, n = .other b := by
  cases n <;> first | exact Or.inl (by decide) | exact Or.inr ⟨_, rfl⟩

theorem of_any (c : Instr) : Statement c := fun n _ => catalogue_complete n

theorem poll : Statement .poll := of_any _
theorem fetch : Statement .fetch := of_any _
theorem put : ∀ body, Statement (.put body) := fun _ => of_any _
theorem abort : Statement .abort := of_any _
theorem resetPort : Statement .resetPort := of_any _
theorem setLine : ∀ r, Statement (.setLine r) := fun _ => of_any _
theorem readLine : Statement .readLine := of_any _
theorem readChannels : Statement .readChannels := of_any _
theorem startRun : Statement .startRun := of_any _
theorem noBilletChange : Statement .noBilletChange := of_any _
theorem endRun : ∀ t, Statement (.endRun t) := fun _ => of_any _
theorem abandonRun : Statement .abandonRun := of_any _
theorem readBillets : Statement .readBillets := of_any _
theorem readPool : Statement .readPool := of_any _
theorem readInspection : ∀ strand, Statement (.readInspection strand) := fun _ => of_any _
theorem editTemplate : ∀ field index value, Statement (.editTemplate field index value) := fun _ _ _ => of_any _
theorem loadTemplate : ∀ slot, Statement (.loadTemplate slot) := fun _ => of_any _
theorem loadCompletion : ∀ rb, Statement (.loadCompletion rb) := fun _ => of_any _
theorem storeTemplate : ∀ slot, Statement (.storeTemplate slot) := fun _ => of_any _
theorem storeCompletion : ∀ rb, Statement (.storeCompletion rb) := fun _ => of_any _
theorem readTemplate : ∀ target, Statement (.readTemplate target) := fun _ => of_any _
theorem libraryReadCompletion : ∀ rb, Statement (.libraryReadCompletion rb) := fun _ => of_any _
theorem readLibrary : Statement .readLibrary := of_any _
theorem commitTemplate : Statement .commitTemplate := of_any _
theorem unlock : ∀ code bytes, Statement (.unlock code bytes) := fun _ _ => of_any _
theorem setCode : ∀ code action bytes level, Statement (.setCode code action bytes level) := fun _ _ _ _ => of_any _
theorem codeWriteCompletion : ∀ verified, Statement (.codeWriteCompletion verified) := fun _ => of_any _
theorem lock : Statement .lock := of_any _
theorem freezeCodes : Statement .freezeCodes := of_any _
theorem readProtection : Statement .readProtection := of_any _
theorem sawHold : Statement .sawHold := of_any _
theorem sawRelease : Statement .sawRelease := of_any _
theorem clearSawFault : Statement .clearSawFault := of_any _
theorem readSaw : Statement .readSaw := of_any _
theorem retirePiece : ∀ key order, Statement (.retirePiece key order) := fun _ _ => of_any _
theorem removeCutSet : ∀ number order, Statement (.removeCutSet number order) := fun _ _ => of_any _
theorem readPieceByKey : ∀ key, Statement (.readPieceByKey key) := fun _ => of_any _
theorem readPieceByCoordinate : ∀ strand addr, Statement (.readPieceByCoordinate strand addr) := fun _ _ => of_any _
theorem listArrived : Statement .listArrived := of_any _
theorem readTransit : Statement .readTransit := of_any _
theorem markTest : ∀ strand isolate level, Statement (.markTest strand isolate level) := fun _ _ _ => of_any _
theorem readMarkers : Statement .readMarkers := of_any _
theorem findZone : ∀ strand addr, Statement (.findZone strand addr) := fun _ _ => of_any _
theorem readZones : ∀ strand addr count block, Statement (.readZones strand addr count block) := fun _ _ _ _ => of_any _
theorem walkZones : ∀ strand start, Statement (.walkZones strand start) := fun _ _ => of_any _
theorem holdSpan : ∀ strand first second order, Statement (.holdSpan strand first second order) := fun _ _ _ _ => of_any _
theorem releaseHold : ∀ strand first second order, Statement (.releaseHold strand first second order) := fun _ _ _ _ => of_any _
theorem overrideZone : ∀ key value, Statement (.overrideZone key value) := fun _ _ => of_any _
theorem holdSpans : ∀ count block, Statement (.holdSpans count block) := fun _ _ => of_any _
theorem holdSpansSpanApply : ∀ order, Statement (.holdSpansSpanApply order) := fun _ => of_any _
theorem readFault : Statement .readFault := of_any _
theorem clearFault : Statement .clearFault := of_any _
theorem ackAlerts : ∀ causes, Statement (.ackAlerts causes) := fun _ => of_any _
theorem raiseSoft : ∀ cause, Statement (.raiseSoft cause) := fun _ => of_any _
theorem setAlertMask : ∀ mask enable, Statement (.setAlertMask mask enable) := fun _ _ => of_any _
theorem phaseSample : ∀ ch p1 p2, Statement (.phaseSample ch p1 p2) := fun _ _ _ => of_any _
theorem handover : Statement .handover := of_any _
theorem cutDone : Statement .cutDone := of_any _
theorem pressRunRising : ∀ t, Statement (.pressRunRising t) := fun _ => of_any _
theorem pressRunFalling : Statement .pressRunFalling := of_any _
theorem sawReadyRising : Statement .sawReadyRising := of_any _
theorem sawReadyFalling : Statement .sawReadyFalling := of_any _
theorem endEye : Statement .endEye := of_any _
theorem hardwareReset : Statement .hardwareReset := of_any _
theorem reportArrival : ∀ g frame, Statement (.reportArrival g frame) := fun _ _ => of_any _
theorem gaugeFramingError : ∀ g, Statement (.gaugeFramingError g) := fun _ => of_any _
theorem gaugeFrameExpiry : ∀ g, Statement (.gaugeFrameExpiry g) := fun _ => of_any _
theorem reportEvaluation : ∀ g t, Statement (.reportEvaluation g t) := fun _ _ => of_any _
theorem futureConditionExpiry : Statement .futureConditionExpiry := of_any _
theorem coverageSweep : ∀ t, Statement (.coverageSweep t) := fun _ => of_any _
theorem goThreshold : Statement .goThreshold := of_any _
theorem cutTimeoutExpiry : Statement .cutTimeoutExpiry := of_any _
theorem windowRefill : Statement .windowRefill := of_any _
theorem conditionClaim : ∀ src, Statement (.conditionClaim src) := fun _ => of_any _
theorem boundary : ∀ strand b conds billet generation commit, Statement (.boundary strand b conds billet generation commit) := fun _ _ _ _ _ _ => of_any _
theorem gaugeFrameStart : ∀ g, Statement (.gaugeFrameStart g) := fun _ => of_any _
theorem messageCheckFailure : ∀ frame, Statement (.messageCheckFailure frame) := fun _ => of_any _
theorem unknownRequestName : ∀ block, Statement (.unknownRequestName block) := fun _ => of_any _

end Sys2Proof.Laws.Named
end

