-- ==== Sys2Proof/Laws/Records.lean ====
section
/-! SUPPORT. What each shared operation over the records does, said once: slots, lines and windows, planning, merges and hand-on, cuts and pieces, tail release, gauge links. -/

namespace Sys2Proof.Machine

open Sys2Proof

/-! ### Vectors, strands and small facts -/

/-- Reading a vector of the four strands after one entry is written. -/
theorem vector_set_get {α : Type} (v : Vector α 4) (i j : Fin 4) (x : α) : (v.set i x)[j] = if i = j then x else v[j] := by
  rw [Fin.getElem_fin, Fin.getElem_fin, Vector.getElem_set]
  simp [Fin.ext_iff]

/-- Every entry of a vector of one value. -/
theorem vector_replicate_get {α : Type} (x : α) (st : Fin 4) : (Vector.replicate 4 x)[st] = x := by
  rw [Fin.getElem_fin]; simp

/-- The active strands are those below the strand count (R27). -/
theorem mem_activeStrands (s : State) (st : Strand) : st ∈ s.activeStrands ↔ st.val < s.rc.active := by
  unfold State.activeStrands
  rw [List.mem_filter]
  have : st ∈ strands := by revert st; decide
  simp [this, State.isActive]

/-- Metal moves in RUNNING, DEAD and DRAINING (R16). -/
theorem moving_iff (r : RunState) : r.moving = true ↔ (r = .running ∨ r = .dead ∨ r = .draining) := by
  cases r <;> simp [RunState.moving]

/-- A strand number is read as its strand. -/
theorem strandOf_val (st : Strand) : strandOf st.val = some st := by simp [strandOf, st.isLt]

/-- The end of the held set is the end of the metal (R55, R187). -/
theorem heldEnd_eq (s : State) (st : Strand) : s.heldEnd st = s.metalEnd st := by
  cases h : s.track st with
  | nil => simp [State.heldEnd, State.metalEnd, h]
  | cons z zs =>
    show (if (s.track st).isEmpty then _ else s.trackEnd st) = _
    rw [h]
    unfold State.metalEnd State.trackEnd
    rw [h, List.getLast?_cons]
    rfl

/-- Where nothing in the zones of the pieces changes, and the cause AMENDED neither, the pieces are as a change of zones leaves them
(R146, R155): their verdicts are those of their zones. -/
theorem amends_same {s t : State} (h : ∀ p ∈ s.pt.pieces, p.verdict = verdictOf p.zones) (k : t.pt.pieces = s.pt.pieces)
    (a : hasCause t.lp.alerts.pendingSet .amended = hasCause s.lp.alerts.pendingSet .amended) : s.amends t := by
  have same : ∀ (i : Nat) (p q : Piece), s.pt.pieces[i]? = some p → t.pt.pieces[i]? = some q → q = p := fun i p q hp hq =>
    Option.some.inj ((hq.symm.trans (by rw [k])).trans hp)
  refine ⟨by rw [k], fun i p q hp hq => ?_, ?_⟩
  · obtain rfl := same i p q hp hq
    exact ⟨h _ (List.mem_of_getElem? hp), rfl, ⟨Or.inl, fun o => o.resolve_right fun x => x.2 rfl⟩⟩
  · rw [a]
    exact ⟨Or.inl, fun o => o.resolve_right fun ⟨i, p, q, hp, hq, x⟩ => x.2 (by rw [same i p q hp hq])⟩

/-- A number above 3 names no strand. -/
theorem strandOf_none {n : Nat} (h : 4 ≤ n) : strandOf n = none := by simp [strandOf]; omega

/-- A choice picks a member of the list (R45). -/
theorem pickOf_mem (n : Nat) (l : List Nat) (h : 0 < l.length) : pickOf n l ∈ l := by
  unfold pickOf
  have : n % l.length < l.length := Nat.mod_lt _ h
  rw [List.getD_eq_getElem _ _ this]
  exact List.getElem_mem this

/-- The members of a list with one slot put back. -/
theorem mem_insertSlot (x y : Nat) : ∀ l, y ∈ insertSlot x l ↔ y = x ∨ y ∈ l
  | [] => by simp [insertSlot]
  | z :: zs => by
    unfold insertSlot
    split
    · simp
    · split
      · rename_i h; subst h; simp
      · simp [mem_insertSlot x y zs]; tauto

/-- Sorting keeps the members. -/
theorem mem_sortUnique (y : Nat) (l : List Nat) : y ∈ sortUnique l ↔ y ∈ l := by
  unfold sortUnique
  induction l with
  | nil => simp
  | cons x xs ih => rw [List.foldr_cons, mem_insertSlot, ih]; simp

/-! ### Alerts -/

/-- Raising a cause writes the pending set alone (R206). -/
theorem raiseIf_eq (s : State) (b : Bool) (c) : s.raiseIf b c =
    { s with lp := { s.lp with alerts := { s.lp.alerts with pendingSet := if b then s.lp.alerts.pendingSet ||| causeMask c else s.lp.alerts.pendingSet } } } := by
  unfold State.raiseIf; cases b <;> rfl

/-- A cause raised is pending (R206). -/
theorem hasCause_raise (s : State) (c : AlertCause) : hasCause (s.raise c).lp.alerts.pendingSet c = true := by
  show (_ ||| causeMask c).getLsbD (causeBit c) = true
  rw [BitVec.getLsbD_or]
  cases c <;> simp [causeMask, causeBit]

/-- A pending cause stays where causes only grow. -/
theorem hasCause_grow {a b : AlertSet} {c : AlertCause} (h : a &&& b = a) (k : hasCause a c = true) : hasCause b c = true := by
  unfold hasCause at *
  rw [← h, BitVec.getLsbD_and] at k
  simp at k; exact k.2

/-- Work that keeps changes the records only. -/
theorem Kept.blocks {s t : State} (k : Kept s t) : s.blocksKept t :=
  ⟨k.tcu, k.line, k.travel, k.rc, k.iu, k.pins, k.pending, k.tps, k.lp, k.grow⟩

/-- A change of the records followed by work that keeps. -/
theorem blocksKept_kept {a b c : State} (h : a.blocksKept b) (k : Kept b c) : a.blocksKept c := by
  obtain ⟨h1, h2, h3, h4, h5, h6, h7, h8, h9, h10⟩ := h
  exact ⟨k.tcu.trans h1, k.line.trans h2, k.travel.trans h3, k.rc.trans h4, k.iu.trans h5, k.pins.trans h6, k.pending.trans h7,
    by rw [k.tps, h8], by rw [k.lp, h9], and_grow h10 k.grow⟩

/-! ### Slots -/

/-- A granted take, whole: the key, the grant, and what is written (R45, R46, R47). -/
theorem takeZone_eq {s s1 : State} {k : TakeKind} {key : Key} (h : s.takeZone k = some (key, s1)) :
    key = s.takenKey ∧ s.ts.grants k = true ∧ ∃ ch al, s1 =
        { s with ts := { s.ts with free := s.ts.free.erase key.slot, setAside := if k = .cut then s.ts.setAside - 1 else s.ts.setAside }, choice := ch, lp := { s.lp with alerts := { s.lp.alerts with pendingSet := al } } } := by
  unfold State.takeZone at h
  by_cases hg : s.ts.grants k = true
  · rw [if_pos hg] at h
    unfold State.poolLow at h
    dsimp only at h
    rw [raiseIf_eq] at h
    cases h
    exact ⟨rfl, hg, _, _, rfl⟩
  · rw [if_neg hg] at h; cases h

/-- Freeing zones writes the free list and the sequence numbers alone (R45). -/
theorem freeZones_eq (zs : List Zone) (s : State) : ∃ ts, s.freeZones zs = { s with ts := ts } ∧ ts.tracks = s.ts.tracks
    ∧ ts.first = s.ts.first ∧ ts.setAside = s.ts.setAside ∧ ts.handed = s.ts.handed := by
  unfold State.freeZones
  induction zs generalizing s with
  | nil => exact ⟨s.ts, rfl, rfl, rfl, rfl, rfl⟩
  | cons z zs ih =>
    obtain ⟨ts, h1, h2, h3, h4, h5⟩ := ih (s.freeZone z.key)
    refine ⟨ts, ?_, h2, h3, h4, h5⟩
    rw [List.foldl_cons, h1]; rfl

/-- A take of a piece slot leaves pieces, queue and head mark (R144). -/
theorem takePiece_eq (s : State) (b) : ∃ ch pt, (s.takePiece b).2 = { s with choice := ch, pt := pt } ∧ pt.pieces = s.pt.pieces
    ∧ pt.queue = s.pt.queue ∧ pt.headMark = s.pt.headMark :=
  ⟨_, _, rfl, rfl, rfl, rfl⟩

/-! ### Lines and windows -/

/-- A judgement writes one line (R171). -/
theorem judgeLine_eq (s : State) (st : Strand) : s.judgeLine st =
    { s with swm := { s.swm with lines := s.swm.lines.set st (s.judged st s.swm.lines[st]) } } := rfl

/-- Judging several lines, each once. -/
theorem judgeFold_eq : ∀ (l : List Strand), l.Nodup → ∀ s : State, ∃ ls : Vector MarkLine 4,
    l.foldl (fun s st => s.judgeLine st) s = { s with swm := { s.swm with lines := ls } } ∧
    ∀ st : Strand, ls[st] = if st ∈ l then s.judged st s.swm.lines[st] else s.swm.lines[st]
  | [], _, s => ⟨s.swm.lines, rfl, fun st => by simp⟩
  | x :: l, h, s => by
    rw [List.nodup_cons] at h
    obtain ⟨ls, h1, h2⟩ := judgeFold_eq l h.2 (s.judgeLine x)
    refine ⟨ls, ?_, ?_⟩
    · rw [List.foldl_cons, h1]; rfl
    · intro st
      rw [h2]
      have e : (s.judgeLine x).swm.lines[st] = if x = st then s.judged x s.swm.lines[x] else s.swm.lines[st] :=
          vector_set_get _ _ _ _
      have e2 : ∀ l, (s.judgeLine x).judged st l = s.judged st l := fun _ => rfl
      rw [e2, e]
      by_cases hx : x = st
      · subst hx; simp [h.1]
      · have : ¬ st = x := fun h => hx h.symm
        simp [hx, this]

/-- Judging every line writes each line by its own judgement (R171). -/
theorem judgeLines_eq (s : State) : ∃ ls : Vector MarkLine 4, s.judgeLines = { s with swm := { s.swm with lines := ls } } ∧
    ∀ st : Strand, ls[st] = s.judged st s.swm.lines[st] := by
  obtain ⟨ls, h1, h2⟩ := judgeFold_eq strands (by decide) s
  refine ⟨ls, h1, fun st => ?_⟩
  rw [h2, if_pos]
  revert st; decide

/-- Where no mark is made the judgement is a line at rest (R173). -/
theorem judged_rest (s : State) (st : Strand) (l : MarkLine) (h : s.rc.run = .idle ∨ s.rc.run = .armed ∨ s.rc.run = .dead) :
    s.judged st l = l.atRest s.line.cfg s.rc.active st := by
  unfold State.judged MarkLine.atRest
  have hi : s.isActive st = decide (st.val < s.rc.active) := rfl
  rw [hi]
  have hcf : s.cfg = s.line.cfg := rfl
  rw [hcf]
  by_cases h1 : l.isolated = true
  · simp [h1]
  · by_cases h2 : hasStrand s.line.cfg.markerEnables st = false ∨ decide (st.val < s.rc.active) = false
    · have h1' : l.isolated = false := by simpa using h1
      rw [if_neg h1, if_pos h2, if_neg (by rcases h2 with h2 | h2 <;> simp_all)]; rfl
    · have h3 : hasStrand s.line.cfg.markerEnables st = true ∧ st.val < s.rc.active := by simp_all
      simp only [h1, h3, true_and]
      rcases h with h | h | h <;> rw [h] <;> simp only <;> cases s.line.cfg.idlePolicy <;> simp_all [MarkLine.lower]

/-- A hand-on at the windows writes windows and lines alone (R167, R168). -/
theorem hitAll_eq (s : State) (ch) : ∃ sw, s.hitAll ch = { s with swm := sw } := by
  have one : ∀ (q : State) st, ∃ sw, q.hit ch st = { q with swm := sw } := by
    intro q st; unfold State.hit; split
    · exact ⟨_, rfl⟩
    · exact ⟨q.swm, rfl⟩
  unfold State.hitAll
  have : ∀ (l : List Strand) (q : State), ∃ sw, l.foldl (fun s st => s.hit ch st) q = { q with swm := sw } := by
    intro l
    induction l with
    | nil => intro q; exact ⟨q.swm, rfl⟩
    | cons x l ih =>
      intro q
      obtain ⟨a, ha⟩ := one q x
      obtain ⟨b, hb⟩ := ih (q.hit ch x)
      refine ⟨b, ?_⟩
      rw [List.foldl_cons, hb, ha]
  exact this _ _

/-! ### Planning -/

/-- Planning writes the plan, the set-aside counts and the pending set alone (R126 to R130). -/
structure PlanOnly (s t : State) : Prop where
  kept : Kept s t
  ts : t.ts = { s.ts with setAside := t.ts.setAside }
  pt : t.pt = { s.pt with setAside := t.pt.setAside }
  swm : t.swm = s.swm
  choice : t.choice = s.choice
  tps : t.tps = s.tps

/-- Nothing done is planning only. -/
theorem PlanOnly.refl (s : State) : PlanOnly s s := ⟨Kept.refl s, rfl, rfl, rfl, rfl, rfl⟩

/-- Planning twice is planning only. -/
theorem PlanOnly.trans {a b c : State} (h : PlanOnly a b) (k : PlanOnly b c) : PlanOnly a c :=
  ⟨h.kept.trans k.kept, by rw [k.ts, h.ts], by rw [k.pt, h.pt], k.swm.trans h.swm, k.choice.trans h.choice, k.tps.trans h.tps⟩

/-- A change of the Cut Planner that leaves its lasting items. -/
theorem planOnly_onCps (s : State) {f : Cps → Cps} (h : (f s.cps).lasting = s.cps.lasting) : PlanOnly s (s.onCps f) :=
  ⟨kept_onCps s h, rfl, rfl, rfl, rfl, rfl⟩

/-- A cause raised. -/
theorem planOnly_raise (s : State) (c) : PlanOnly s (s.raise c) := ⟨kept_raise s c, rfl, rfl, rfl, rfl, rfl⟩

/-- A cause raised under a condition. -/
theorem planOnly_raiseIf (s : State) (b c) : PlanOnly s (s.raiseIf b c) := by
  unfold State.raiseIf; split; exact planOnly_raise s c; exact PlanOnly.refl s

/-- Asking for the reservation (R129, R130). -/
theorem planOnly_askReservation (s : State) : PlanOnly s s.askReservation := by
  unfold State.askReservation
  split
  · exact planOnly_onCps s rfl
  · split
    · exact planOnly_onCps s rfl
    · have h1 : PlanOnly s (s.setZonesAside s.rc.active) :=
        PlanOnly.trans (b := s.onTs fun t => { t with setAside := t.setAside + s.rc.active }) ⟨kept_onTs s _, rfl, rfl, rfl,
            rfl, rfl⟩ (planOnly_raiseIf _ _ _)
      have h2 : PlanOnly (s.setZonesAside s.rc.active) ((s.setZonesAside s.rc.active).onPt fun p =>
          { p with setAside := p.setAside + s.rc.active }) :=
        ⟨kept_onPt rfl rfl rfl, rfl, rfl, rfl, rfl, rfl⟩
      exact (h1.trans h2).trans (planOnly_onCps _ rfl)

/-- Moving a late plan (R125). -/
theorem planOnly_movePlan (s : State) (p) : PlanOnly s (s.movePlan p) := by
  unfold State.movePlan; split; exact planOnly_onCps s rfl; exact PlanOnly.refl s

/-- Judging the threshold (R128). -/
theorem planOnly_judgeGo (s : State) : PlanOnly s s.judgeGo := by
  unfold State.judgeGo
  split
  · dsimp only
    split
    · split
      · exact (planOnly_movePlan s _).trans (planOnly_askReservation _)
      · exact (planOnly_movePlan s _).trans (planOnly_onCps _ rfl)
    · exact (planOnly_movePlan s _).trans (planOnly_onCps _ rfl)
  · exact PlanOnly.refl s

/-- Planning (R126). -/
theorem planOnly_replan (s : State) : PlanOnly s s.replan := by
  unfold State.replan
  split
  · split
    · exact (planOnly_onCps s rfl).trans (planOnly_judgeGo _)
    · exact planOnly_onCps s rfl
  · exact PlanOnly.refl s

/-- Entry to READY (R139). -/
theorem planOnly_sawToReady (s : State) : PlanOnly s s.sawToReady := (planOnly_onCps s rfl).trans (planOnly_replan _)

/-- Entry to RETURN (R139). -/
theorem planOnly_sawToReturn (s : State) : PlanOnly s s.sawToReturn := by
  unfold State.sawToReturn
  dsimp only
  split
  · exact (planOnly_onCps s rfl).trans (planOnly_sawToReady _)
  · exact planOnly_onCps s rfl

/-- Planning after a claim (R66). -/
theorem planOnly_replanRange (s : State) (lo hi) : PlanOnly s (s.replanRange lo hi) := by
  unfold State.replanRange; split; exact planOnly_replan s; exact PlanOnly.refl s

/-- A plan moved is still a plan. -/
theorem movePlan_cps (s : State) (p) (h : s.cps.plan = some p) : (s.movePlan p).cps.saw = s.cps.saw
    ∧ (s.movePlan p).cps.plan.isSome = true ∧ (s.movePlan p).cps.noPlan = s.cps.noPlan := by
  unfold State.movePlan; split
  · exact ⟨rfl, rfl, rfl⟩
  · exact ⟨rfl, by rw [h]; rfl, rfl⟩

/-- The judgement in PLANNED leaves a plan, in PLANNED or GO (R128, R130). -/
theorem judgeGo_planned (s : State) (p) (h1 : s.cps.saw = .planned) (h2 : s.cps.plan = some p) (h3 : s.cps.noPlan = .none) :
    s.judgeGo.cps.planned := by
  obtain ⟨m1, m2, m3⟩ := movePlan_cps s p h2
  unfold State.judgeGo
  rw [h1, h2]
  dsimp only
  split
  · split
    · unfold State.askReservation
      split
      · exact Or.inr ⟨Or.inl (m1.trans h1), m2, m3.trans h3⟩
      · split
        · exact Or.inr ⟨Or.inl (m1.trans h1), m2, m3.trans h3⟩
        · exact Or.inr ⟨Or.inr rfl, (by 
            have : ∀ x : State, (x.setZonesAside x.rc.active).cps = x.cps := fun x => by
              unfold State.setZonesAside State.poolLow State.raiseIf; split <;> rfl
            show (State.cps (State.setZonesAside _ _)).plan.isSome = true
            rw [this]; exact m2), rfl⟩
    · exact Or.inr ⟨Or.inl (m1.trans h1), m2, m3.trans h3⟩
  · exact Or.inr ⟨Or.inl (m1.trans h1), m2, m3.trans h3⟩

/-- Where there is no plan there is a reason (R127). -/
theorem computePlan_reason (s : State) (r) (h : s.computePlan = .noPlan r) : r ≠ .none := by
  unfold State.computePlan at h
  dsimp only at h
  split at h
  · cases h; simp
  · split at h
    · cases h; simp
    · cases h

/-- What planning in READY or PLANNED leaves (R126, R127). -/
theorem replan_planned (s : State) (h : s.cps.saw = .ready ∨ s.cps.saw = .planned) : s.replan.cps.planned := by
  unfold State.replan
  rw [if_pos h]
  split
  · exact judgeGo_planned _ _ rfl rfl rfl
  · rename_i r hr
    exact Or.inl ⟨rfl, rfl, rfl, computePlan_reason s r hr⟩

/-- What entry to READY leaves (R126, R139). -/
theorem sawToReady_planned (s : State) : s.sawToReady.cps.planned := replan_planned _ (Or.inl rfl)

/-! ### Merges and hand-on -/

/-- A merge keeps the lower start and takes the upper place (R65). -/
theorem absorb_shape (a b : Zone) : (a.absorb b).start = a.start ∧ (a.absorb b).place = b.place := by
  unfold Zone.absorb
  have : ∀ (fs : List Finding) (z : Zone), (fs.foldl Zone.addFinding z).start = z.start
      ∧ (fs.foldl Zone.addFinding z).place = z.place := by
    intro fs; induction fs with
    | nil => intro z; exact ⟨rfl, rfl⟩
    | cons f fs ih => intro z; rw [List.foldl_cons]; exact ih _
  obtain ⟨h1, h2⟩ := this b.findings { a with place := b.place, truncated := a.truncated || b.truncated }
  exact ⟨h1, h2⟩

/-- A merge keeps the lower fields (R65). -/
theorem absorb_fields (a b : Zone) : (a.absorb b).conds = a.conds ∧ (a.absorb b).billet = a.billet
    ∧ (a.absorb b).generation = a.generation := by
  unfold Zone.absorb
  have : ∀ (fs : List Finding) (z : Zone), (fs.foldl Zone.addFinding z).conds = z.conds
      ∧ (fs.foldl Zone.addFinding z).billet = z.billet ∧ (fs.foldl Zone.addFinding z).generation = z.generation := by
    intro fs; induction fs with
    | nil => intro z; exact ⟨rfl, rfl, rfl⟩
    | cons f fs ih => intro z; rw [List.foldl_cons]; exact ih _
  exact this b.findings { a with place := b.place, truncated := a.truncated || b.truncated }

/-- A mark leaves start and place (R64). -/
theorem mark_shape (c : Claim) (z : Zone) : (c.mark z).start = z.start ∧ (c.mark z).place = z.place := by
  unfold Claim.mark
  split
  · dsimp only; split
    · split <;> exact ⟨rfl, rfl⟩
    · exact ⟨rfl, rfl⟩
  · exact ⟨rfl, rfl⟩

/-- An edge of a claim that no straddling zone would change under makes no split (R62). -/
theorem edge_of_unchanged {c : Claim} {upper : Bool} {y : Coord} {e : Edged}
    (h : ∀ z ∈ e.zs, z.strictlyInside y = true → c.changes z = false) :
    (c.edge upper y e).zs = e.zs ∧ (c.edge upper y e).w = e.w
      ∧ ∀ k ∈ (c.edge upper y e).whole, k ∈ e.whole ∨ ∃ z ∈ e.zs, z.strictlyInside y = true ∧ z.key = k := by
  unfold Claim.edge
  split
  · exact ⟨rfl, rfl, fun k hk => .inl hk⟩
  · rename_i z hz
    have inside := List.find?_some hz
    have mem := List.mem_of_find?_eq_some hz
    rw [if_pos (h z mem inside)]
    refine ⟨rfl, rfl, fun k hk => ?_⟩
    rcases List.mem_append.mp hk with hk | hk
    · exact .inl hk
    · exact .inr ⟨z, mem, inside, (List.mem_singleton.mp hk).symm⟩

/-- With no key named nothing is marked (R64). -/
theorem markAll_nil (c : Claim) : ∀ (zs : List Zone) (w : Work), c.markAll [] zs w = (zs, w)
  | [], _ => rfl
  | z :: zs, w => by simp [Claim.markAll, markAll_nil c zs w]

/-- With no zone marked no edge is checked (R65). -/
theorem mergePass_nil (zs : List Zone) (w : Work) : mergePass [] zs w = (zs, w) := by
  simp [mergePass]

/-- A removal that finds no HELD zone in its range leaves a list as it was (R68, R192). -/
theorem applyList_of_noneHeld {c : Claim} {y1 y2 : Coord} {zs : List Zone} (w : Work) (hc : c.action = .removeHeld)
    (hk : (zs.map (·.key)).Nodup)
    (hz : ∀ z ∈ zs, z.strictlyInside y1 = true ∨ z.strictlyInside y2 = true ∨ z.within y1 y2 = true → hasCond z.conds .held = false) :
    c.applyList y1 y2 zs w = (zs, w) := by
  have same (z : Zone) : c.changes z = hasCond z.conds .held := by simp [Claim.changes, hc]
  obtain ⟨z1, w1, k1⟩ := edge_of_unchanged (c := c) (upper := false) (y := y1) (e := { zs := zs, whole := [], w := w })
    fun z hm hs => (same z).trans (hz z hm (.inl hs))
  obtain ⟨z2, w2, k2⟩ := edge_of_unchanged (c := c) (upper := true) (y := y2)
    (e := c.edge false y1 { zs := zs, whole := [], w := w }) fun z hm hs => (same z).trans (hz z (by rw [z1] at hm; exact hm) (.inr (.inl hs)))
  have whole : ∀ k ∈ (c.edge true y2 (c.edge false y1 { zs := zs, whole := [], w := w })).whole,
      ∃ z ∈ zs, (z.strictlyInside y1 = true ∨ z.strictlyInside y2 = true) ∧ z.key = k := by
    intro k hm
    rcases k2 k hm with hm | ⟨z, hm, hs, e⟩
    · rcases k1 k hm with hm | ⟨z, hm, hs, e⟩
      · exact absurd hm List.not_mem_nil
      · exact ⟨z, hm, .inl hs, e⟩
    · exact ⟨z, by rw [z1] at hm; exact hm, .inr hs, e⟩
  have none : c.markKeys y1 y2 (c.edge true y2 (c.edge false y1 { zs := zs, whole := [], w := w })) = [] := by
    simp only [Claim.markKeys, List.map_eq_nil_iff, List.filter_eq_nil_iff]
    rw [z2, z1]
    intro z hm h
    simp only [Claim.marks, hc, Bool.and_eq_true, Bool.or_eq_true, List.contains_iff_mem] at h
    have unheld : hasCond z.conds .held = false := by
      rcases h.2 with hin | hw
      · exact hz z hm (.inr (.inr hin))
      · obtain ⟨y, hy, hs, e⟩ := whole _ hw
        rw [← List.inj_on_of_nodup_map hk hy hm e]
        exact hz y hy (hs.imp id .inl)
    rw [unheld] at h
    exact Bool.false_ne_true h.1
  unfold Claim.applyList
  dsimp only
  rw [none, markAll_nil, mergePass_nil, z2, z1, w2, w1]

/-- Such a removal changes nothing in the zone list of a piece (R53, R192). -/
theorem onPiece_of_noneHeld {c : Claim} {hi : Coord} {p : Piece} (w : Work) (hc : c.action = .removeHeld)
    (hk : (p.zones.map (·.key)).Nodup)
    (hz : max c.x1 p.head < min hi p.tail → ∀ z ∈ p.zones, z.strictlyInside (max c.x1 p.head) = true ∨ z.strictlyInside (min hi p.tail) = true
      ∨ z.within (max c.x1 p.head) (min hi p.tail) = true → hasCond z.conds .held = false) : c.onPiece hi w p = w := by
  unfold Claim.onPiece
  dsimp only
  split
  · rename_i h
    rw [applyList_of_noneHeld _ hc hk (hz h)]
    rfl
  · rfl

/-- Such a removal changes nothing in a track (R192). -/
theorem onTrack_of_noneHeld {c : Claim} {hi stop : Coord} (w : Work) (hc : c.action = .removeHeld)
    (hk : ((w.s.track c.strand).map (·.key)).Nodup)
    (hz : max c.x1 (w.s.ts.first[c.strand]) < min hi stop → ∀ z ∈ w.s.track c.strand,
      z.strictlyInside (max c.x1 (w.s.ts.first[c.strand])) = true ∨ z.strictlyInside (min hi stop) = true
        ∨ z.within (max c.x1 (w.s.ts.first[c.strand])) (min hi stop) = true → hasCond z.conds .held = false) :
    c.onTrack hi stop w = w := by
  unfold Claim.onTrack
  dsimp only
  split
  · rename_i h
    rw [applyList_of_noneHeld _ hc hk (hz h)]
    have e : w.s.setTrack c.strand (w.s.track c.strand) = w.s := by
      simp [State.setTrack, State.onTs, State.track]
    simp only [e]
  · rfl

/-- Merge checks write no track; their caller does. -/
theorem mergeScan_tracks : ∀ (zs : List Zone) (cur n) (w : Work), (mergeScan cur zs n w).2.s.ts.tracks = w.s.ts.tracks
  | [], _, _, w => rfl
  | z :: zs, cur, n, w => by
    unfold mergeScan
    split
    · exact mergeScan_tracks zs _ _ _
    · split
      · rfl
      · exact mergeScan_tracks zs z _ w

/-- One edge checked: it merges or it does not (R65). -/
theorem mergeScan_one (old new : Zone) (w : Work) : ((mergeScan old [new] 1 w).1 = [old, new] ∨ (old.mergesWith new = true
    ∧ (mergeScan old [new] 1 w).1 = [old.absorb new])) := by
  unfold mergeScan
  split
  · rename_i h; right; exact ⟨h, rfl⟩
  · left; rw [if_pos (by omega)]

/-- A hand-on leaves the Track Store but for its set-aside count, and the Template Store (R66). -/
structure HandsOn (s t : State) : Prop where
  ts : t.ts = { s.ts with setAside := t.ts.setAside }
  tps : t.tps = s.tps
  kept : Kept s t

/-- Nothing handed on. -/
theorem HandsOn.refl (s : State) : HandsOn s s := ⟨rfl, rfl, Kept.refl s⟩

/-- Two hand-ons. -/
theorem HandsOn.trans {a b c : State} (h : HandsOn a b) (k : HandsOn b c) : HandsOn a c :=
  ⟨by rw [k.ts, h.ts], k.tps.trans h.tps, h.kept.trans k.kept⟩

/-- Planning as a hand-on. -/
theorem handsOn_plan {s t : State} (h : PlanOnly s t) : HandsOn s t := ⟨h.ts, h.tps, h.kept⟩

/-- A verdict computed again (R146). -/
theorem handsOn_refresh (s : State) (k) : HandsOn s (s.refreshVerdict k) := by
  have K := kept_refreshVerdict s k
  refine ⟨?_, ?_, K⟩
  · unfold State.refreshVerdict
    split
    · rfl
    · dsimp only; split
      · rfl
      · rw [raiseIf_eq]; rfl
  · unfold State.refreshVerdict
    split
    · rfl
    · dsimp only; split
      · rfl
      · rw [raiseIf_eq]; rfl

/-- Several verdicts computed again. -/
theorem handsOn_refreshAll : ∀ (l : List Key) (s : State), HandsOn s (l.foldl State.refreshVerdict s)
  | [], s => HandsOn.refl s
  | k :: l, s => (handsOn_refresh s k).trans (handsOn_refreshAll l _)

/-- Hits at the windows (R167). -/
theorem handsOn_hit (s : State) (ch) : HandsOn s (s.hitAll ch) := by
  refine ⟨?_, ?_, kept_hitAll s ch⟩
  all_goals
    obtain ⟨sw, h⟩ := hitAll_eq s ch
    rw [h]

/-- The whole hand-on of a claim (R66). -/
theorem handsOn_work (w : Work) : HandsOn w.s w.handOn := by
  unfold Work.handOn
  split
  · dsimp only
    have h := (handsOn_hit w.s { gone := w.gone, written := w.written }).trans (handsOn_refreshAll w.pieces _)
    split
    · exact h.trans (handsOn_plan (planOnly_replanRange _ _ _))
    · exact h
  · exact HandsOn.refl _

/-! ### Cuts and pieces -/

/-- A cut in one track writes the Track Store, and the head of that strand becomes the cut (R70). -/
theorem cutTrack_eq (s : State) (st c k kind) : ∃ ts ch al, (s.cutTrack st c k kind).s =
    { s with ts := ts, choice := ch, lp := { s.lp with alerts := { s.lp.alerts with pendingSet := al } } }
    ∧ ts.first = s.ts.first.set st c := by
  unfold State.cutTrack
  split
  · split
    · rename_i h
      obtain ⟨-, -, ch, al, rfl⟩ := takeZone_eq h
      exact ⟨_, _, _, rfl, rfl⟩
    · exact ⟨_, s.choice, s.lp.alerts.pendingSet, rfl, rfl⟩
  · exact ⟨_, s.choice, s.lp.alerts.pendingSet, rfl, rfl⟩

/-- What the strands cut so far have left (R70, R132). -/
structure CutFold (s : State) (n : Nat) (h c : Coord) (f : CutFlags) (w : SetWork) (done : List Strand) : Prop where
  tcu : w.s.tcu = s.tcu
  line : w.s.line = s.line
  travel : w.s.travel = s.travel
  iu : w.s.iu = s.iu
  pins : w.s.pins = s.pins
  pending : w.s.pending = s.pending
  rc : w.s.rc = s.rc
  tps : w.s.tps = s.tps
  cps : w.s.cps = s.cps
  pieces : w.s.pt.pieces = s.pt.pieces
  queue : w.s.pt.queue = s.pt.queue
  head : w.s.pt.headMark = s.pt.headMark
  strandsE : w.pieces.map (·.strand) = done
  each : ∀ q ∈ w.pieces, q.head = h ∧ q.tail = c ∧ q.cutNumber = n ∧ q.unplanned = f.unplanned ∧ q.shifted = f.shifted
      ∧ q.tailFlag = f.tail ∧ q.state = .transit
  first : ∀ st : Strand, w.s.ts.first[st] = if st ∈ done then c else s.ts.first[st]

/-- One more strand cut. -/
theorem cutFold_step {s n h c f w done} (r : Bool) (H : CutFold s n h c f w done) (st : Strand) : CutFold s n h c f
    (SetWork.cutStrand n h c r f w st) (done ++ [st]) := by
  obtain ⟨ch, pt, e1, e2, e3, e4⟩ := takePiece_eq w.s r
  unfold SetWork.cutStrand
  dsimp only
  obtain ⟨ts, ch', al, m1, m2⟩ := cutTrack_eq (w.s.takePiece r).2 st c (w.s.takePiece r).1 (if r = true then .cut else
      .nonMandatory)
  rw [e1] at m1 m2
  rw [e1]
  generalize State.cutTrack _ st c _ _ = m at *
  have m2' : ts.first = w.s.ts.first.set st c := m2
  constructor
  · show m.s.tcu = _; rw [m1]; exact H.tcu
  · show m.s.line = _; rw [m1]; exact H.line
  · show m.s.travel = _; rw [m1]; exact H.travel
  · show m.s.iu = _; rw [m1]; exact H.iu
  · show m.s.pins = _; rw [m1]; exact H.pins
  · show m.s.pending = _; rw [m1]; exact H.pending
  · show m.s.rc = _; rw [m1]; exact H.rc
  · show m.s.tps = _; rw [m1]; exact H.tps
  · show m.s.cps = _; rw [m1]; exact H.cps
  · show m.s.pt.pieces = _; rw [m1]; exact e2.trans H.pieces
  · show m.s.pt.queue = _; rw [m1]; exact e3.trans H.queue
  · show m.s.pt.headMark = _; rw [m1]; exact e4.trans H.head
  · rw [List.map_append, H.strandsE]; rfl
  · intro q hq
    rw [List.mem_append, List.mem_singleton] at hq
    rcases hq with hq | rfl
    · exact H.each q hq
    · exact ⟨rfl, rfl, rfl, rfl, rfl, rfl, rfl⟩
  · intro x
    show m.s.ts.first[x] = _
    rw [m1]
    show ts.first[x] = _
    rw [m2', vector_set_get, H.first]
    by_cases hx : st = x
    · subst hx; simp
    · have : ¬ x = st := fun h => hx h.symm
      simp [hx, this]

/-- Every strand cut. -/
theorem cutFold_all {s n h c f} (r : Bool) : ∀ (l : List Strand) (w : SetWork) (done), CutFold s n h c f w done
    → CutFold s n h c f (l.foldl (SetWork.cutStrand n h c r f) w) (done ++ l)
  | [], w, done, H => by rw [List.append_nil]; exact H
  | x :: l, w, done, H => by
    have := cutFold_all r l _ _ (cutFold_step r H x)
    rw [List.append_assoc] at this
    exact this

/-- A birth writes the Piece Table and the pending set alone (R149). -/
theorem birth_eq (s : State) (n ps) : ∃ pt al, s.birth n ps =
    { s with pt := pt, lp := { s.lp with alerts := { s.lp.alerts with pendingSet := al } } } := by
  unfold State.birth
  split
  · exact ⟨_, _, rfl⟩
  · split
    · exact ⟨_, s.lp.alerts.pendingSet, rfl⟩
    · exact ⟨_, _, rfl⟩

/-- A birth appends one piece for each given, state and LATE aside as it was (R149). -/
theorem birth_pieces (s : State) (n ps) : ∃ pt al qs, s.birth n ps =
    { s with pt := pt, lp := { s.lp with alerts := { s.lp.alerts with pendingSet := al } } } ∧ pt.pieces = s.pt.pieces ++ qs
    ∧ qs.map (·.strand) = ps.map (·.strand) ∧ (∀ q ∈ qs, ∃ p ∈ ps, q.head = p.head ∧ q.tail = p.tail
        ∧ q.cutNumber = p.cutNumber ∧ q.unplanned = p.unplanned ∧ q.shifted = p.shifted ∧ q.tailFlag = p.tailFlag) := by
  unfold State.birth
  split
  · refine ⟨_, _, ps.map (fun q => { q with state := .arrived }), rfl, rfl, by rw [List.map_map]; rfl, ?_⟩
    intro q hq
    rw [List.mem_map] at hq
    obtain ⟨p, hp, rfl⟩ := hq
    exact ⟨p, hp, rfl, rfl, rfl, rfl, rfl, rfl⟩
  · split
    · exact ⟨_, s.lp.alerts.pendingSet, ps, rfl, rfl, rfl, fun q hq => ⟨q, hq, rfl, rfl, rfl, rfl, rfl, rfl⟩⟩
    · refine ⟨_, _, ps.map (fun q => { q with state := .arrived, late := true }), rfl, rfl, by rw [List.map_map]; rfl, ?_⟩
      intro q hq
      rw [List.mem_map] at hq
      obtain ⟨p, hp, rfl⟩ := hq
      exact ⟨p, hp, rfl, rfl, rfl, rfl, rfl, rfl⟩

/-- A recorded cut, whole (R132, R133, R138). -/
theorem recordCut_facts (s : State) (c : Coord) (r : Bool) (f : CutFlags) : ∃ ps : List Piece,
    let t := s.recordCut c r f
    t.tcu = s.tcu ∧ t.line = s.line ∧ t.iu = s.iu ∧ t.tps = s.tps ∧ t.pins = s.pins ∧ t.travel = s.travel
        ∧ t.pending = s.pending
        ∧ t.rc = { s.rc with billets := t.rc.billets }
        ∧ t.cps = { s.cps with cutCounter := s.cps.cutCounter + 1, lastCut := some (c, s.cps.cutCounter + 1) }
        ∧ t.pt.pieces = s.pt.pieces ++ ps ∧ ps.map (·.strand) = s.activeStrands
        ∧ (∀ q ∈ ps, q.head = s.head ∧ q.tail = c ∧ q.cutNumber = s.cps.cutCounter + 1 ∧ q.unplanned = f.unplanned
            ∧ q.shifted = f.shifted ∧ q.tailFlag = f.tail)
        ∧ (∀ st : Strand, t.ts.first[st] = if st.val < s.rc.active then c else s.ts.first[st]) := by
  unfold State.recordCut
  dsimp only
  have C := cutFold_all r s.activeStrands { s := s, pieces := [], ch := { gone := [], written := [] } } [] (s := s) (n :=
      s.cps.cutCounter + 1) (h := s.head) (c := c) (f := f)
    ⟨rfl, rfl, rfl, rfl, rfl, rfl, rfl, rfl, rfl, rfl, rfl, rfl, rfl, by simp, by simp⟩
  rw [List.nil_append] at C
  generalize List.foldl (SetWork.cutStrand (s.cps.cutCounter + 1) s.head c r f) _ s.activeStrands = w at *
  obtain ⟨pt, al, qs, b1, b2, b3, b4⟩ := birth_pieces w.s (s.cps.cutCounter + 1) w.pieces
  obtain ⟨sw, hh⟩ := hitAll_eq (w.s.birth (s.cps.cutCounter + 1) w.pieces) w.ch
  rw [hh, b1]
  refine ⟨qs, C.tcu, C.line, C.iu, C.tps, C.pins, C.travel, C.pending, ?_, ?_, ?_, b3.trans C.strandsE, ?_, ?_⟩
  · show ({ w.s.rc with billets := _ } : Rc) = _; rw [C.rc]; rfl
  · show ({ w.s.cps with cutCounter := _, lastCut := _ } : Cps) = _; rw [C.cps]
  · show pt.pieces = _; rw [b2, C.pieces]
  · intro q hq
    obtain ⟨p, hp, i1, i2, i3, i4, i5, i6⟩ := b4 q hq
    obtain ⟨j1, j2, j3, j4, j5, j6, -⟩ := C.each p hp
    exact ⟨i1.trans j1, i2.trans j2, i3.trans j3, i4.trans j4, i5.trans j5, i6.trans j6⟩
  · intro st
    show w.s.ts.first[st] = _
    rw [C.first]
    simp only [mem_activeStrands]

/-- What frees of pieces leave (R156). -/
structure Freed (s t : State) : Prop where
  tracks : t.ts.tracks = s.ts.tracks
  queue : t.pt.queue = s.pt.queue
  tcu : t.tcu = s.tcu
  run : t.rc = s.rc
  tps : t.tps = s.tps
  lp : t.lp = s.lp

/-- One piece freed (R156). -/
theorem freePiece_facts (s : State) (p : Piece) : Freed s (s.freePiece p)
    ∧ (s.freePiece p).pt.pieces = s.pt.pieces.filter fun q => q.key != p.key := by
  unfold State.freePiece
  obtain ⟨ts, h1, h2, h3⟩ := freeZones_eq p.zones s
  rw [h1]
  obtain ⟨sw, hh⟩ := hitAll_eq (((({ s with ts := ts } : State).freePieceSlot p.key).onPt fun t =>
      { t with pieces := t.pieces.filter fun q => q.key != p.key })) { gone := p.zones.map (·.key), written := [] }
  rw [hh]
  exact ⟨⟨h2, rfl, rfl, rfl, rfl, rfl⟩, rfl⟩

/-- Several pieces freed (R158). -/
theorem freeSet_facts : ∀ (set : List Piece) (s : State), Freed s (set.foldl State.freePiece s) ∧ ∀ q,
    q ∈ (set.foldl State.freePiece s).pt.pieces ↔ q ∈ s.pt.pieces ∧ ∀ p ∈ set, q.key ≠ p.key
  | [], s => ⟨⟨rfl, rfl, rfl, rfl, rfl, rfl⟩, by simp⟩
  | p :: ps, s => by
    obtain ⟨F, h⟩ := freePiece_facts s p
    obtain ⟨G, g⟩ := freeSet_facts ps (s.freePiece p)
    rw [List.foldl_cons]
    refine ⟨⟨G.tracks.trans F.tracks, G.queue.trans F.queue, G.tcu.trans F.tcu, G.run.trans F.run, G.tps.trans F.tps,
        G.lp.trans F.lp⟩, fun q => ?_⟩
    rw [g, h, List.mem_filter]
    simp only [bne_iff_ne, List.mem_cons, forall_eq_or_imp]
    tauto

/-! ### Tail release and the end of DRAINING -/

/-- Outside DRAINING no tail is released (R38). -/
theorem tryRelease_calm {s : State} (h : s.rc.run ≠ .draining) : s.tryRelease = s := by
  unfold State.tryRelease
  split
  · rw [if_neg]
    unfold State.tailDue
    have : (s.rc.run == RunState.draining) = false := beq_eq_false_iff_ne.2 h
    rw [this]; simp
  · rfl

/-- Outside DRAINING nothing ends (R39). -/
theorem drainEnd_calm {s : State} (h : s.rc.run ≠ .draining) : s.drainEnd = s := by
  unfold State.drainEnd; rw [if_neg]; exact fun hh => h hh.1

/-- Outside DRAINING a free is followed by the billet drop and the judgement of the threshold (R157). -/
theorem afterFree_calm {s : State} (h : s.rc.run ≠ .draining) (o : FreeOrder) : s.afterFree o = s.billetDrop.judgeGo := by
  have h' : s.billetDrop.rc.run ≠ .draining := h
  have hj : s.billetDrop.judgeGo.rc.run ≠ .draining := by rw [(planOnly_judgeGo s.billetDrop).kept.rc]; exact h
  cases o
  · show s.billetDrop.tryRelease.drainEnd.judgeGo = _
    rw [tryRelease_calm h', drainEnd_calm h']
  · show s.billetDrop.judgeGo.tryRelease.drainEnd = _
    rw [tryRelease_calm hj, drainEnd_calm hj]

/-- The saw at tail release is neither PLANNED nor in GO (R142). -/
theorem sawAtRelease_facts (s : State) : Kept s s.sawAtRelease ∧ s.sawAtRelease.cps.saw ≠ .planned
    ∧ s.sawAtRelease.cps.saw ≠ .go ∧ s.sawAtRelease.ts.tracks = s.ts.tracks ∧ s.sawAtRelease.ts.first = s.ts.first := by
  unfold State.sawAtRelease
  cases h : s.cps.saw <;> dsimp only
  · exact ⟨Kept.refl _, by rw [h]; decide, by rw [h]; decide, rfl, rfl⟩
  · exact ⟨kept_onCps s rfl, (by show SawState.ready ≠ _; decide), (by show SawState.ready ≠ _; decide), rfl, rfl⟩
  · exact ⟨((kept_returnReservation s).trans (kept_onCps _ rfl)).trans (kept_raise _ _), (by show SawState.fault ≠ _; decide),
      (by show SawState.fault ≠ _; decide), rfl, rfl⟩
  · exact ⟨Kept.refl _, by rw [h]; decide, by rw [h]; decide, rfl, rfl⟩
  · exact ⟨Kept.refl _, by rw [h]; decide, by rw [h]; decide, rfl, rfl⟩
  · exact ⟨kept_returnReservation s, by show s.cps.saw ≠ _; rw [h]; decide, by show s.cps.saw ≠ _; rw [h]; decide, rfl, rfl⟩

/-- The end of DRAINING, where it comes (R39). -/
theorem drainEnd_facts (s : State) : s.drainEnd.tcu = s.tcu ∧ s.drainEnd.line = s.line ∧ s.drainEnd.ts.tracks = s.ts.tracks ∧
    (s.drainEnd = s ∨ (s.drainEnd.rc.run = .idle ∧ s.drainEnd.rc.active = 0 ∧ s.drainEnd.pt.pieces = []
        ∧ s.drainEnd.cps.saw = .held)) := by
  unfold State.drainEnd
  by_cases h : s.rc.run = .draining ∧ s.rc.tailReleased = true ∧ s.pt.pieces = []
  · rw [if_pos h]
    generalize hq : State.restSaw _ = q
    have hp : q.pt.pieces = s.pt.pieces ∧ q.tcu = s.tcu ∧ q.line = s.line ∧ q.ts.tracks = s.ts.tracks ∧ q.rc.run = .idle
        ∧ q.rc.active = 0 ∧ q.cps.saw = .held := by
      subst hq; exact ⟨rfl, rfl, rfl, rfl, rfl, rfl, rfl⟩
    obtain ⟨p1, p2, p3, p4, p5, p6, p7⟩ := hp
    exact ⟨p2, p3, p4, Or.inr ⟨p5, p6, p1.trans h.2.2, p7⟩⟩
  · rw [if_neg h]; exact ⟨rfl, rfl, rfl, Or.inl rfl⟩

/-! ### Links of the gauges -/

/-- Reading one link after one is written. -/
theorem onLink_link (u : Iu) (g g' : Gauge) (f : Link → Link) : (u.onLink g f).link g' = if g' = g then f (u.link g) else
    u.link g' := by
  cases g <;> cases g' <;> rfl

/-- The release check writes PREVIOUS and the commit coordinate alone (R111). -/
theorem releaseCheck_eq (s : State) : ∃ p c, s.releaseCheck = { s with tps := { s.tps with previous := p, commitCoord := c } }
    := by
  unfold State.releaseCheck; split
  · exact ⟨_, _, rfl⟩
  · exact ⟨s.tps.previous, s.tps.commitCoord, rfl⟩

/-- A tracker written leaves the links. -/
theorem setTracker_link (u : Iu) (st k t g) : (u.setTracker st k t).link g = u.link g := by cases g <;> rfl

/-- Coverage marks of several strands raised (R86). -/
theorem coverFold_eq (p : Coord) : ∀ (l : List Strand), l.Nodup → ∀ (x : Link),
    (l.foldl (fun l st => l.cover st p) x).queue = x.queue ∧ (l.foldl (fun l st => l.cover st p) x).blind = x.blind
    ∧ ∀ st : Strand, (l.foldl (fun l st => l.cover st p) x).covered[st] = if st ∈ l then max x.covered[st] p else x.covered[st]
  | [], _, x => ⟨rfl, rfl, fun st => by simp⟩
  | a :: l, hn, x => by
    rw [List.nodup_cons] at hn
    obtain ⟨h1, h2, h3⟩ := coverFold_eq p l hn.2 (x.cover a p)
    rw [List.foldl_cons]
    refine ⟨h1, h2, fun st => ?_⟩
    rw [h3]
    have : (x.cover a p).covered[st] = if a = st then max x.covered[a] p else x.covered[st] := by
      show (x.covered.set a (max x.covered[a] p))[st] = _
      rw [vector_set_get]
    rw [this]
    by_cases ha : a = st
    · subst ha; simp [hn.1]
    · have : ¬ st = a := fun e => ha e.symm
      simp [ha, this]

end Sys2Proof.Machine
end

