-- ==== Sys2Proof/Laws/Planning.lean ====
section
/-! SUPPORT. What judging the threshold and planning do, each said once in the words of the statements, and how changes of records follow one another. -/

namespace Sys2Proof.Machine

open Sys2Proof

/-- Setting slots aside raises POOL-LOW exactly where the available count crosses (R46, R47). -/
theorem setZonesAside_eq (s : State) (n : Nat) : s.setZonesAside n =
    { s with ts := { s.ts with setAside := s.ts.setAside + n },
             lp := if 17 ≤ s.ts.available ∧ s.ts.free.length - (s.ts.setAside + n) ≤ 16 then (s.withCause .poolLow).lp else s.lp } := by
  unfold State.setZonesAside State.poolLow State.raiseIf
  have e : (decide (Config.reserve < s.ts.available)
      && decide ((s.onTs fun t => { t with setAside := t.setAside + n }).ts.available ≤ Config.reserve)) =
      decide (17 ≤ s.ts.available ∧ s.ts.free.length - (s.ts.setAside + n) ≤ 16) := by
    rw [← Bool.decide_and]; rfl
  rw [e]
  by_cases h : 17 ≤ s.ts.available ∧ s.ts.free.length - (s.ts.setAside + n) ≤ 16
  · rw [if_pos h, if_pos (decide_eq_true h)]; rfl
  · rw [if_neg h, if_neg (by simpa using h)]; rfl

/-- Judging the threshold, whole (R125, R128 to R130). -/
theorem judgeGo_goJudged (s : State) : s.goJudged s.judgeGo := by
  constructor
  · intro h
    unfold State.judgeGo
    split
    · rename_i h1 h2
      rcases h with h | h
      · exact absurd h1 h
      · rw [h] at h2; cases h2
    · rfl
  · intro p h1 h2
    have hr : s.reachable = if s.line.cfg.dSAW ≤ s.tcu.L then some (s.tcu.L - s.line.cfg.dSAW + s.line.cfg.lead) else none := rfl
    have hm : ∀ c : Cps, ({ s with cps := c } : State).reachable = s.reachable := fun _ => rfl
    unfold State.judgeGo
    rw [h1, h2]
    dsimp only
    refine ⟨fun h => ?_, fun h3 h4 => ?_⟩
    · have hl : (s.moveLate p) = (p, false) := by
        unfold State.moveLate
        rw [hr]
        by_cases hd : s.line.cfg.dSAW ≤ s.tcu.L
        · rw [if_pos hd]
          exact if_neg fun q => h.elim (fun z => absurd hd (Nat.not_le.2 z)) fun z => Nat.lt_asymm q z
        · rw [if_neg hd]
      have : s.movePlan p = s := by unfold State.movePlan; rw [hl]; rfl
      rw [this, hl]
      have : s.thresholdReached p = false := by
        unfold State.thresholdReached
        rw [hr]
        by_cases hd : s.line.cfg.dSAW ≤ s.tcu.L
        · rw [if_pos hd]; exact decide_eq_false fun q => h.elim (fun z => absurd hd (Nat.not_le.2 z)) fun z => absurd q (Nat.not_le.2 z)
        · rw [if_neg hd]
      rw [this]; rfl
    · have ho : s.reachable = some (s.tcu.L - s.line.cfg.dSAW + s.line.cfg.lead) := by rw [hr, if_pos h3]
      have hl : s.moveLate p = (max p (s.tcu.L - s.line.cfg.dSAW + s.line.cfg.lead), decide (p < s.tcu.L - s.line.cfg.dSAW + s.line.cfg.lead)) := by
        unfold State.moveLate
        rw [ho]
        dsimp only
        by_cases hlt : p < s.tcu.L - s.line.cfg.dSAW + s.line.cfg.lead
        · rw [if_pos hlt, max_eq_right (Nat.le_of_lt hlt), decide_eq_true hlt]
        · rw [if_neg hlt, max_eq_left (Nat.not_lt.1 hlt), decide_eq_false hlt]
      have hp : s.movePlan p = { s with cps := { s.cps with plan := some (max p (s.tcu.L - s.line.cfg.dSAW + s.line.cfg.lead)), planLate := s.cps.planLate || decide (p < s.tcu.L - s.line.cfg.dSAW + s.line.cfg.lead) } } := by
        unfold State.movePlan
        rw [hl]
        by_cases hlt : p < s.tcu.L - s.line.cfg.dSAW + s.line.cfg.lead
        · rw [decide_eq_true hlt, if_pos rfl, Bool.or_true]; rfl
        · rw [decide_eq_false hlt, if_neg Bool.false_ne_true, Bool.or_false, max_eq_left (Nat.not_lt.1 hlt), ← h2]
      have ht : (s.movePlan p).thresholdReached (s.moveLate p).1 = true := by
        rw [hp, hl]
        unfold State.thresholdReached
        rw [hm, ho]
        exact decide_eq_true (max_le h4 (Nat.le_refl _))
      rw [ht, hp]
      dsimp only
      rw [if_pos rfl]
      refine ⟨fun h => ?_, fun h q => ?_, fun h q r => ?_, fun h q r => ?_⟩
      · rw [h]; rfl
      · rw [h, if_pos rfl]; unfold State.askReservation; rw [if_pos q]; rfl
      · rw [h, if_pos rfl]; unfold State.askReservation; rw [if_neg (by simpa using q)]; rw [if_pos r]; rfl
      · rw [h, if_pos rfl]; unfold State.askReservation; rw [if_neg (by simpa using q), if_neg (by simpa using r), setZonesAside_eq]; rfl

/-- Planning, whole (R126 to R130). -/
theorem replan_replans (s : State) : s.replans s.replan := by
  constructor
  · intro h k
    unfold State.replan
    rw [if_neg (by rintro (x | x); exact h x; exact k x)]
  · intro h
    unfold State.replan
    rw [if_pos h]
    refine ⟨fun r e => ?_, fun p late e => ?_⟩
    · rw [e]; rfl
    · rw [e]; exact judgeGo_goJudged _

/-- The judgement of the threshold has one outcome. -/
theorem goJudged_unique {s t u : State} (h : s.goJudged t) (k : s.goJudged u) : t = u := by
  by_cases c : s.cps.saw ≠ .planned ∨ s.cps.plan = none
  · rw [h.1 c, k.1 c]
  · rw [not_or, not_not] at c
    obtain ⟨c1, c2⟩ := c
    obtain ⟨p, hp⟩ := Option.ne_none_iff_exists'.1 c2
    have h := h.2 p c1 hp
    have k := k.2 p c1 hp
    dsimp only at h k
    by_cases a : s.tcu.L < s.line.cfg.dSAW ∨ s.tcu.L - s.line.cfg.dSAW + s.line.cfg.lead < p
    · rw [h.1 a, k.1 a]
    · rw [not_or, not_lt, not_lt] at a
      have h := h.2 a.1 a.2
      have k := k.2 a.1 a.2
      by_cases b : s.pins.sawReady = false
      · rw [h.1 b, k.1 b]
      · rw [Bool.not_eq_false] at b
        by_cases d : s.pt.available < s.rc.active
        · rw [h.2.1 b d, k.2.1 b d]
        · rw [not_lt] at d
          by_cases e : s.ts.available < s.rc.active
          · rw [h.2.2.1 b d e, k.2.2.1 b d e]
          · rw [not_lt] at e
            rw [h.2.2.2 b d e, k.2.2.2 b d e]

/-- Planning has one outcome. -/
theorem replans_unique {s t u : State} (h : s.replans t) (k : s.replans u) : t = u := by
  by_cases c : s.cps.saw = .ready ∨ s.cps.saw = .planned
  · have h := h.2 c
    have k := k.2 c
    cases e : s.computePlan with
    | noPlan r => rw [h.1 r e, k.1 r e]
    | plan p late => exact goJudged_unique (h.2 p late e) (k.2 p late e)
  · rw [not_or] at c
    rw [h.1 c.1 c.2, k.1 c.1 c.2]

/-- In PLANNED with a plan the judgement does not read the wait reason held (R128). -/
theorem judgeGo_anyWait (s : State) (k : WaitReason) (p : Coord) (h : s.cps.saw = .planned) (h' : s.cps.plan = some p) :
    ({ s with cps := { s.cps with wait := k } } : State).judgeGo = s.judgeGo := by
  refine goJudged_unique (s := s) ⟨fun c => ?_, (judgeGo_goJudged { s with cps := { s.cps with wait := k } }).2⟩ (judgeGo_goJudged s)
  rcases c with c | c
  · exact absurd h c
  · rw [h'] at c; cases c

/-- Planning does not read the plan before (R126): of the saw it reads the items that outlive a plan and the timeout. -/
theorem replan_anyPlan (s : State) (c : Cps) (h : s.cps.saw = .ready ∨ s.cps.saw = .planned) (hc : c.saw = .ready ∨ c.saw = .planned)
    (hl : c.lasting = s.cps.lasting) (ht : c.timeout = s.cps.timeout) : ({ s with cps := c } : State).replan = s.replan := by
  have e : ∀ x y : Cps, x.lasting = y.lasting → x.timeout = y.timeout →
      x = { y with saw := x.saw, plan := x.plan, planLate := x.planLate, wait := x.wait, noPlan := x.noPlan } := by
    intro x y l t
    cases x; cases y
    simp only [Cps.lasting, Prod.mk.injEq] at l
    obtain ⟨rfl, rfl, rfl, rfl⟩ := l
    cases t
    rfl
  have q : ({ s with cps := c } : State).computePlan = s.computePlan := by
    rw [e c s.cps hl ht]; rfl
  unfold State.replan
  rw [if_pos h, if_pos hc, q]
  cases s.computePlan with
  | noPlan r => rw [e c s.cps hl ht]; rfl
  | plan p late =>
    rw [e c s.cps hl ht]
    exact judgeGo_anyWait (s.onCps fun c => { c.enter .planned with plan := some p, planLate := late }) _ p rfl rfl

/-- What the judgement leaves of the saw: outside GO the reservation, the timeout and the items that outlive a plan. -/
theorem judgeGo_leaves (s : State) : s.judgeGo.cps.lasting = s.cps.lasting
    ∧ (s.judgeGo.cps.saw = .go ∨ s.judgeGo.cps.saw = s.cps.saw ∧ s.judgeGo.cps.timeout = s.cps.timeout
        ∧ s.judgeGo.ts.setAside = s.ts.setAside ∧ s.judgeGo.pt.setAside = s.pt.setAside) := by
  refine ⟨(planOnly_judgeGo s).kept.saw, ?_⟩
  have H := judgeGo_goJudged s
  by_cases c : s.cps.saw ≠ .planned ∨ s.cps.plan = none
  · rw [H.1 c]; exact Or.inr ⟨rfl, rfl, rfl, rfl⟩
  · rw [not_or, not_not] at c
    obtain ⟨p, hp⟩ := Option.ne_none_iff_exists'.1 c.2
    have H := H.2 p c.1 hp
    dsimp only at H
    by_cases a : s.tcu.L < s.line.cfg.dSAW ∨ s.tcu.L - s.line.cfg.dSAW + s.line.cfg.lead < p
    · rw [H.1 a]; exact Or.inr ⟨rfl, rfl, rfl, rfl⟩
    · rw [not_or, not_lt, not_lt] at a
      obtain ⟨h1, h2, h3, h4⟩ := H.2 a.1 a.2
      cases b : s.pins.sawReady with
      | false => rw [h1 b]; exact Or.inr ⟨rfl, rfl, rfl, rfl⟩
      | true =>
        by_cases d : s.pt.available < s.rc.active
        · rw [h2 b d]; exact Or.inr ⟨rfl, rfl, rfl, rfl⟩
        · by_cases e : s.ts.available < s.rc.active
          · rw [h3 b (not_lt.1 d) e]; exact Or.inr ⟨rfl, rfl, rfl, rfl⟩
          · rw [h4 b (not_lt.1 d) (not_lt.1 e)]; exact Or.inl rfl

/-- What planning leaves of the saw. -/
theorem replan_leaves (s : State) (h : s.cps.saw = .ready ∨ s.cps.saw = .planned) : s.replan.cps.lasting = s.cps.lasting
    ∧ (s.replan.cps.saw = .go ∨ (s.replan.cps.saw = .ready ∨ s.replan.cps.saw = .planned) ∧ s.replan.cps.timeout = s.cps.timeout
        ∧ s.replan.ts.setAside = s.ts.setAside ∧ s.replan.pt.setAside = s.pt.setAside) := by
  refine ⟨(planOnly_replan s).kept.saw, ?_⟩
  unfold State.replan
  rw [if_pos h]
  cases s.computePlan with
  | noPlan r => exact Or.inr ⟨Or.inl rfl, rfl, rfl, rfl⟩
  | plan p late =>
    rcases (judgeGo_leaves (s.onCps fun c => { c.enter .planned with plan := some p, planLate := late })).2 with g | ⟨g1, g2, g3, g4⟩
    · exact Or.inl g
    · exact Or.inr ⟨Or.inr g1, g2, g3, g4⟩

/-- Nothing changed. -/
theorem onlyRecords_refl (s : State) : s.onlyRecords s :=
  ⟨(Kept.refl s).blocks, rfl, rfl, rfl, rfl, rfl, rfl, rfl, fun _ _ => ⟨rfl, rfl, rfl⟩, fun _ => Or.inl ⟨rfl, rfl, rfl⟩⟩

/-- Two changes of the records, one after the other. -/
theorem onlyRecords_trans {a b c : State} (h : a.onlyRecords b) (k : b.onlyRecords c) : a.onlyRecords c := by
  obtain ⟨⟨h1, h2, h3, h4, h5, h6, h7, h8, h9, h10⟩, hf, hp, hb, c1, c2, c3, c4, hs⟩ := h
  obtain ⟨⟨k1, k2, k3, k4, k5, k6, k7, k8, k9, k10⟩, kf, kp, kb, d1, d2, d3, d4, ks⟩ := k
  have act : b.tps.active = a.tps.active := by rw [h8]
  have free : b.pt.free = a.pt.free := by rw [hp]
  refine ⟨⟨k1.trans h1, k2.trans h2, k3.trans h3, k4.trans h4, k5.trans h5, k6.trans h6, k7.trans h7, by rw [k8, h8], by rw [k9, h9],
    and_grow h10 k10⟩, kf.trans hf, by rw [kp, hp], kb.trans hb, d1.trans c1, d2.trans c2, d3.trans c3, d4.trans c4, ?_, ?_⟩
  · intro x y
    obtain ⟨e1, e2, e3⟩ := hs.1 x y
    obtain ⟨g1, g2, g3⟩ := ks.1 (by rw [e1]; exact x) (by rw [e1]; exact y)
    exact ⟨g1.trans e1, g2.trans e2, g3.trans e3⟩
  · intro x
    have moment : ∀ v : State, b.plansAt v → b.ts.setAside = a.ts.setAside → b.pt.setAside = a.pt.setAside →
        a.plansAt { v with cps := a.cps } := by
      rintro v ⟨v1, v2, v3, v4, -, v6, v7, v8, v9, v10⟩ s1 s2
      exact ⟨v1.trans h1, v2.trans h2, v3.trans h6, v4.trans act, rfl, by rw [v6, h4], v7.trans hf, v8.trans s1, v9.trans free, v10.trans s2⟩
    have again : (b.cps.saw = .ready ∨ b.cps.saw = .planned) → b.cps.timeout = a.cps.timeout → b.ts.setAside = a.ts.setAside →
        b.pt.setAside = a.pt.setAside → ∀ v w : State, b.plansAt v → v.replans w →
        ∃ v w', a.plansAt v ∧ v.replans w' ∧ w = w' := by
      intro bp bt s1 s2 v w pv rw_
      refine ⟨{ v with cps := a.cps }, w, moment v pv s1 s2, ?_, rfl⟩
      have vc : v.cps = b.cps := pv.2.2.2.2.1
      have := replan_anyPlan v a.cps (by rw [vc]; exact bp) x (by rw [vc]; simp only [Cps.lasting, c1, c2, c3, c4]) (by rw [vc, bt])
      rw [replans_unique rw_ (replan_replans v), ← this]
      exact replan_replans _
    rcases hs.2 x with ⟨e1, e2, e3⟩ | ⟨v, w, pv, pw, e1, e2, e3⟩
    · have bp : b.cps.saw = .ready ∨ b.cps.saw = .planned := by rw [e1]; exact x
      rcases ks.2 bp with ⟨g1, g2, g3⟩ | ⟨v, w, pv, pw, g1, g2, g3⟩
      · exact Or.inl ⟨g1.trans e1, g2.trans e2, g3.trans e3⟩
      · obtain ⟨v, w', a1, a2, rfl⟩ := again bp (by rw [e1]) e2 e3 v w pv pw
        exact Or.inr ⟨v, w, a1, a2, g1, g2, g3⟩
    · have vc : v.cps = a.cps := pv.2.2.2.2.1
      have hw := replans_unique pw (replan_replans v)
      rcases (replan_leaves v (by rw [vc]; exact x)).2 with g | ⟨g1, g2, g3, g4⟩
      · rw [← hw, ← e1] at g
        obtain ⟨g1, g2, g3⟩ := ks.1 (by rw [g]; decide) (by rw [g]; decide)
        exact Or.inr ⟨v, w, pv, pw, g1.trans e1, g2.trans e2, g3.trans e3⟩
      · rw [← hw] at g1 g2 g3 g4
        have bp : b.cps.saw = .ready ∨ b.cps.saw = .planned := by rw [e1]; exact g1
        rcases ks.2 bp with ⟨f1, f2, f3⟩ | ⟨v', w', pv', pw', f1, f2, f3⟩
        · exact Or.inr ⟨v, w, pv, pw, f1.trans e1, f2.trans e2, f3.trans e3⟩
        · obtain ⟨v'', w'', a1, a2, rfl⟩ := again bp (by rw [e1, g2, vc]) (by rw [e2, g3]; exact pv.2.2.2.2.2.2.2.1)
            (by rw [e3, g4]; exact pv.2.2.2.2.2.2.2.2.2) v' w' pv' pw'
          exact Or.inr ⟨v'', w', a1, a2, f1, f2, f3⟩

/-- Planning, as a change of the records. -/
theorem onlyRecords_replan (s : State) : s.onlyRecords s.replan := by
  have P := planOnly_replan s
  have L := P.kept.saw
  simp only [Cps.lasting, Prod.mk.injEq] at L
  have pc : s.replan.pt.pieces = s.pt.pieces := by rw [P.pt]
  refine ⟨P.kept.blocks, by rw [P.ts], ?_, by dsimp only; rw [pc], L.2.1, L.2.2.1, L.2.2.2, L.1, fun x y => ?_, fun _ => Or.inr
    ⟨s, s.replan, ⟨rfl, rfl, rfl, rfl, rfl, rfl, rfl, rfl, rfl, rfl⟩, replan_replans s, rfl, rfl, rfl⟩⟩
  · rw [pc]; exact P.pt
  · rw [(replan_replans s).1 x y]; exact ⟨rfl, rfl, rfl⟩

end Sys2Proof.Machine
end

