-- ==== Sys2Proof/Laws/Sound.lean ====
section
/-! SUPPORT. How the shared operations keep the sound states of Sys2Proof/Safety.lean: one relation, which each of them is shown to keep. -/

namespace Sys2Proof.Machine

open Sys2Proof

/-! ### The relation -/

/-- Nothing that the sound states speak of is changed, but that queues of reports may shorten, attempts fall and pieces in transit leave. -/
structure Same (s t : State) : Prop where
  pend : t.pending = s.pending
  grow : causesGrow s.lp.alerts.pendingSet t.lp.alerts.pendingSet
  tcu : t.tcu = s.tcu
  cfg : t.line.cfg = s.line.cfg
  bil : t.rc.billets = s.rc.billets
  que : t.pt.queue = s.pt.queue
  iuq : ∀ g, (t.iu.link g).queue.length ≤ (s.iu.link g).queue.length
  att : t.tps.attempts ≤ s.tps.attempts
  cnt : t.cps.cutCounter = s.cps.cutCounter
  pcs : ∀ p ∈ t.pt.pieces, p.state = .transit → ∃ q ∈ s.pt.pieces, q.state = .transit ∧ q.cutNumber = p.cutNumber

/-- No cause is lost where none changes. -/
theorem grow_refl (a : AlertSet) : causesGrow a a := BitVec.and_self

/-- Nothing done. -/
theorem Same.refl (s : State) : Same s s := ⟨rfl, grow_refl _, rfl, rfl, rfl, rfl, fun _ => le_refl _, le_refl _, rfl,
    fun p hp h => ⟨p, hp, h, rfl⟩⟩

/-- Two changes. -/
theorem Same.trans {a b c : State} (h : Same a b) (k : Same b c) : Same a c :=
  ⟨k.pend.trans h.pend, and_grow h.grow k.grow, k.tcu.trans h.tcu, k.cfg.trans h.cfg, k.bil.trans h.bil, k.que.trans h.que,
   fun g => (k.iuq g).trans (h.iuq g), k.att.trans h.att, k.cnt.trans h.cnt, fun p hp hs => by
     obtain ⟨q, q1, q2, q3⟩ := k.pcs p hp hs
     obtain ⟨r, r1, r2, r3⟩ := h.pcs q q1 q2
     exact ⟨r, r1, r2, r3.trans q3⟩⟩

/-- Work that keeps. -/
theorem Same.of_kept {s t : State} (h : Kept s t) : Same s t := by
  refine ⟨h.pending, h.grow, h.tcu, by rw [h.line], by rw [h.rc], h.queue, fun g => by rw [h.iu], by rw [h.tps], ?_, ?_⟩
  · have := h.saw; simp only [Cps.lasting, Prod.mk.injEq] at this; exact this.2.1
  · intro p hp hs
    have : p.fixed ∈ s.pt.pieces.map Piece.fixed := by rw [← h.pieces]; exact List.mem_map_of_mem hp
    obtain ⟨q, q1, q2⟩ := List.mem_map.1 this
    refine ⟨q, q1, ?_, ?_⟩
    · have : q.fixed.2.2.2.2.2.1 = p.fixed.2.2.2.2.2.1 := by rw [q2]
      exact this.trans hs
    · have : q.fixed.2.2.1 = p.fixed.2.2.1 := by rw [q2]
      exact this

/-- Every sound state stays sound, the waiting commands stay, and no cause is lost. -/
structure Sound (s t : State) : Prop where
  pend : t.pending = s.pending
  grow : causesGrow s.lp.alerts.pendingSet t.lp.alerts.pendingSet
  trav : s.travelSound → t.travelSound
  size : s.withinSizes → t.withinSizes
  bil : billetsOrdered s.rc.billets → billetsOrdered t.rc.billets
  que : s.queueOrdered → t.queueOrdered

/-- The tables stay within their sizes. -/
theorem Same.withinSizes {s t : State} (h : Same s t) (hb : t.rc.billets.length ≤ 32) (hw : s.withinSizes) : t.withinSizes := by
  obtain ⟨a1, a2, a3, a4, a5, a6⟩ := hw
  exact ⟨by rw [h.que]; exact a1, (h.iuq .g0).trans a2, (h.iuq .g1).trans a3, (h.iuq .g2).trans a4, hb, h.att.trans a6⟩

/-- Where nothing is changed every sound state stays sound. -/
theorem Same.sound {s t : State} (h : Same s t) : Sound s t := by
  refine ⟨h.pend, h.grow, fun k => ?_, fun k => h.withinSizes (by rw [h.bil]; exact k.2.2.2.2.1) k,
      fun k => by rw [h.bil]; exact k, fun k => ?_⟩
  · unfold State.travelSound; rw [h.tcu, h.cfg]; exact k
  · obtain ⟨k1, k2, k3⟩ := k
    refine ⟨by rw [h.que]; exact k1, by rw [h.que, h.cnt]; exact k2, fun p hp hs => ?_⟩
    obtain ⟨q, q1, q2, q3⟩ := h.pcs p hp hs
    rw [h.que, ← q3]; exact k3 q q1 q2

/-- Nothing done. -/
theorem Sound.refl (s : State) : Sound s s := (Same.refl s).sound

/-- Two changes. -/
theorem Sound.trans {a b c : State} (h : Sound a b) (k : Sound b c) : Sound a c :=
  ⟨k.pend.trans h.pend, and_grow h.grow k.grow, fun x => k.trav (h.trav x), fun x => k.size (h.size x),
      fun x => k.bil (h.bil x), fun x => k.que (h.que x)⟩

/-- Work that keeps. -/
theorem Sound.kept {s t : State} (h : Kept s t) : Sound s t := (Same.of_kept h).sound

/-! ### Changes block by block -/

/-- A change of the port that loses no cause. -/
theorem same_lp (s : State) {f : Lp → Lp} (h : causesGrow s.lp.alerts.pendingSet (f s.lp).alerts.pendingSet) : Same s (s.onLp
    f) :=
  ⟨rfl, h, rfl, rfl, rfl, rfl, fun _ => le_refl _, le_refl _, rfl, fun p hp h => ⟨p, hp, h, rfl⟩⟩

/-- A REPLY. -/
theorem same_respond (s : State) (a b c) : Same s (s.respond a b c) := same_lp s (grow_refl _)

/-- The end of a request (R199). -/
theorem same_endR (s : State) (a b c d e) : Same s (s.endRequest a b c d e) := same_lp s (grow_refl _)

/-- A cause raised. -/
theorem same_raise (s : State) (c) : Same s (s.raise c) := Same.of_kept (kept_raise s c)

/-- The end of a request at a later event (R199). -/
theorem same_endLater (s : State) (a b c d e) : Same s (s.endLater a b c d e) := (same_endR s a b c d e).trans (same_raise _ _)

/-- A REQUEST taken. -/
theorem same_taking (s : State) (c : Instr) : Same s (s.taking c) := same_lp s (grow_refl _)

/-- A change of the Template Store. -/
theorem same_tps (s : State) {f : Tps → Tps} (h : (f s.tps).attempts ≤ s.tps.attempts) : Same s (s.onTps f) :=
  ⟨rfl, grow_refl _, rfl, rfl, rfl, rfl, fun _ => le_refl _, h, rfl, fun p hp h => ⟨p, hp, h, rfl⟩⟩

/-- A change of the Cut Planner. -/
theorem same_cps (s : State) {f : Cps → Cps} (h : (f s.cps).cutCounter = s.cps.cutCounter) : Same s (s.onCps f) :=
  ⟨rfl, grow_refl _, rfl, rfl, rfl, rfl, fun _ => le_refl _, le_refl _, h, fun p hp h => ⟨p, hp, h, rfl⟩⟩

/-- Levels at the pins. -/
theorem same_pins (s : State) (f) : Same s (s.onPins f) :=
  ⟨rfl, grow_refl _, rfl, rfl, rfl, rfl, fun _ => le_refl _, le_refl _, rfl, fun p hp h => ⟨p, hp, h, rfl⟩⟩

/-- A travel event taken or handed. -/
theorem same_travel (s : State) (f) : Same s (s.onTravel f) :=
  ⟨rfl, grow_refl _, rfl, rfl, rfl, rfl, fun _ => le_refl _, le_refl _, rfl, fun p hp h => ⟨p, hp, h, rfl⟩⟩

/-- A change of Run Control. -/
theorem same_rc (s : State) {f : Rc → Rc} (h : (f s.rc).billets = s.rc.billets) : Same s (s.onRc f) :=
  ⟨rfl, grow_refl _, rfl, rfl, h, rfl, fun _ => le_refl _, le_refl _, rfl, fun p hp h => ⟨p, hp, h, rfl⟩⟩

/-- A change of the Track Store. -/
theorem same_ts (s : State) (f) : Same s (s.onTs f) := Same.of_kept (kept_onTs s f)

/-- A change of windows and lines. -/
theorem same_swm (s : State) (f) : Same s (s.onSwm f) := Same.of_kept (kept_onSwm s f)

/-- A change of the Inspection Unit. -/
theorem same_iu (s : State) {f : Iu → Iu} (h : ∀ g, ((f s.iu).link g).queue.length ≤ (s.iu.link g).queue.length) : Same s
    (s.onIu f) :=
  ⟨rfl, grow_refl _, rfl, rfl, rfl, rfl, h, le_refl _, rfl, fun p hp h => ⟨p, hp, h, rfl⟩⟩

/-- A change of the die-run state (R25). -/
theorem same_enter (s : State) (r) : Same s (s.enter r) := (same_rc s rfl).trans (same_raise _ _)

/-- A change of one link. -/
theorem same_link (s : State) (g) {f : Link → Link} (h : (f (s.iu.link g)).queue.length ≤ (s.iu.link g).queue.length) : Same s
    (s.onLink g f) := by
  refine same_iu s fun g' => ?_
  rw [onLink_link]; split
  · rename_i e; subst e; exact h
  · exact le_refl _

/-- The windows at a return to IDLE (R169). -/
theorem same_dark (s : State) : Same s s.darkMarkers := Same.of_kept (kept_darkMarkers s)

/-- A change of the Piece Table that leaves pieces and queue. -/
theorem same_pt (s : State) {f : Pt → Pt} (h1 : (f s.pt).queue = s.pt.queue) (h2 : (f s.pt).pieces = s.pt.pieces) : Same s
    (s.onPt f) :=
  ⟨rfl, grow_refl _, rfl, rfl, rfl, h1, fun _ => le_refl _, le_refl _, rfl, fun p hp h => ⟨p, by rw [← h2]; exact hp, h, rfl⟩⟩

/-! ### Requests -/

/-- The state that a course leaves. -/
def Course.state : Course → State | .ends s _ _ _ _ => s | .deliver s _ => s | .goesOn s _ => s

/-- What the port does with a course (R198). -/
theorem settle_same (n : ReqName) (c : Course) : Same (Course.state c) (c.settle n) := by
  cases c with
  | ends s e f i d => exact (same_endR s _ _ _ _ _).trans (same_respond _ _ _ _)
  | deliver s b => exact (same_lp s (grow_refl _)).trans (same_respond _ _ _ _)
  | goesOn s p => exact (same_lp s (grow_refl _)).trans (same_respond _ _ _ _)

/-- A REQUEST is sound where its body is (R198). -/
theorem request_sound (s : State) (c n f) (h : Sound (s.taking c) (Course.state (f (s.taking c)))) :
    Sound s (s.request c n f) := by
  unfold State.request
  split
  · exact ((same_taking s c).sound.trans h).trans (settle_same _ _).sound
  · exact (same_respond _ _ _ _).sound

/-! ### Billets, births, cuts, tail release, frees -/

/-- The billet drop keeps the order (R42). -/
theorem dropBillets_ordered (low : Coord) : ∀ bs, billetsOrdered bs → billetsOrdered (dropBillets low bs)
  | [], h => h
  | [_], h => h
  | b :: c :: bs, h => by
    unfold dropBillets; split
    · exact dropBillets_ordered low (c :: bs) h.2.2
    · exact h

/-- The billet drop makes no entry (R42). -/
theorem dropBillets_length (low : Coord) : ∀ bs : List Billet, (dropBillets low bs).length ≤ bs.length
  | [] => le_refl _
  | [_] => le_refl _
  | b :: c :: bs => by
    unfold dropBillets; split
    · exact (dropBillets_length low (c :: bs)).trans (by simp)
    · exact le_refl _

/-- A change of the billets alone. -/
theorem billets_sound (s : State) {f : Rc → Rc} (h1 : (f s.rc).billets.length ≤ max s.rc.billets.length 32) (h2 :
    billetsOrdered s.rc.billets → billetsOrdered (f s.rc).billets) : Sound s (s.onRc f) := by
  refine ⟨rfl, grow_refl _, fun k => k, fun k => ?_, h2, fun k => k⟩
  obtain ⟨a1, a2, a3, a4, a5, a6⟩ := k
  refine ⟨a1, a2, a3, a4, ?_, a6⟩
  have : s.rc.billets.length ≤ 32 := a5
  show (f s.rc).billets.length ≤ 32
  omega

/-- The billet drop (R42). -/
theorem billetDrop_sound (s : State) : Sound s s.billetDrop :=
    billets_sound s ((dropBillets_length _ _).trans (le_max_left _ _)) (dropBillets_ordered _ _)

/-- A birth with the next number keeps the transit queue in order (R149, R151). -/
theorem birth_queue (s : State) (n : Nat) (ps : List Piece) (hq : ∀ m ∈ s.pt.queue, m < n) (hp : ∀ q ∈ ps, q.state = .transit
    → q.cutNumber = n)
    (h : s.queueOrdered) : let t := s.birth n ps
    t.pt.queue.Pairwise (· < ·) ∧ (∀ m ∈ t.pt.queue, m ≤ n) ∧ (∀ p ∈ t.pt.pieces, p.state = .transit
        → p.cutNumber ∈ t.pt.queue) ∧ (s.pt.queue.length ≤ Config.transitQueue → t.pt.queue.length ≤ Config.transitQueue) := by
  obtain ⟨h1, h2, h3⟩ := h
  unfold State.birth
  split
  · refine ⟨h1, fun m hm => Nat.le_of_lt (hq m hm), fun p hp' hs => ?_, fun x => x⟩
    have hp'' : p ∈ s.pt.pieces ++ _ := hp'
    rw [List.mem_append, List.mem_map] at hp''
    rcases hp'' with hp'' | ⟨q, -, rfl⟩
    · exact h3 p hp'' hs
    · cases hs
  · split
    · rename_i hl
      refine ⟨?_, ?_, fun p hp' hs => ?_, fun _ => ?_⟩
      · show (s.pt.queue ++ [n]).Pairwise (· < ·)
        rw [List.pairwise_append]; exact ⟨h1, by simp, by simpa using hq⟩
      · intro m hm
        have hm' : m ∈ s.pt.queue ++ [n] := hm
        rw [List.mem_append, List.mem_singleton] at hm'
        rcases hm' with hm' | rfl
        · exact Nat.le_of_lt (hq m hm')
        · exact le_refl _
      · have hp'' : p ∈ s.pt.pieces ++ ps := hp'
        show p.cutNumber ∈ s.pt.queue ++ [n]
        rw [List.mem_append] at hp'' ⊢
        rcases hp'' with hp'' | hp''
        · exact Or.inl (h3 p hp'' hs)
        · exact Or.inr (by rw [hp p hp'' hs]; simp)
      · show (s.pt.queue ++ [n]).length ≤ Config.transitQueue
        rw [List.length_append]
        exact hl
    · refine ⟨h1, fun m hm => Nat.le_of_lt (hq m hm), fun p hp' hs => ?_, fun x => x⟩
      have hp'' : p ∈ s.pt.pieces ++ _ := hp'
      rw [List.mem_append, List.mem_map] at hp''
      rcases hp'' with hp'' | ⟨q, -, rfl⟩
      · exact h3 p hp'' hs
      · cases hs

/-- What a birth leaves. -/
theorem birth_kept (s : State) (n ps) : let t := s.birth n ps
    t.pending = s.pending ∧ causesGrow s.lp.alerts.pendingSet t.lp.alerts.pendingSet ∧ t.tcu = s.tcu ∧ t.line = s.line
        ∧ t.rc = s.rc ∧ t.iu = s.iu ∧ t.tps = s.tps ∧ t.cps = s.cps := by
  unfold State.birth
  split
  · exact ⟨rfl, grow_or _ _, rfl, rfl, rfl, rfl, rfl, rfl⟩
  · split
    · exact ⟨rfl, grow_refl _, rfl, rfl, rfl, rfl, rfl, rfl⟩
    · exact ⟨rfl, grow_or _ _, rfl, rfl, rfl, rfl, rfl, rfl⟩

/-- A birth, and the cut counter moved to its number (R133). -/
theorem birth_sound (s : State) (n : Nat) (ps : List Piece) (hn : n = s.cps.cutCounter + 1) (hp : ∀ q ∈ ps, q.state = .transit
    → q.cutNumber = n)
    (f : Cps → Cps) (hf : (f s.cps).cutCounter = n) (ch : Changes) (b : Bool) : Sound s ((if b then (s.birth n ps).hitAll ch
        else s.birth n ps).onCps f) := by
  have H : ∀ t : State, (∃ sw, t = { s.birth n ps with swm := sw }) → Sound s (t.onCps f) := by
    rintro t ⟨sw, rfl⟩
    obtain ⟨b1, b2, b3, b4, b5, b6, b7, b8⟩ := birth_kept s n ps
    refine ⟨b1, b2, fun k => ?_, fun k => ?_, fun k => ?_, fun k => ?_⟩
    · show State.travelSound _
      unfold State.travelSound
      show Tcu.sound (s.birth n ps).tcu ∧ _
      rw [b3]; refine ⟨k.1, ?_⟩
      show (s.birth n ps).line.cfg.pullerMode = _ → _
      rw [b4]; show _ → (s.birth n ps).tcu.chA.enable = _ ∧ (s.birth n ps).tcu.chB.enable = _; rw [b3]; exact k.2
    · obtain ⟨a1, a2, a3, a4, a5, a6⟩ := k
      refine ⟨?_, by show (s.birth n ps).iu.g0.queue.length ≤ _; rw [b6]; exact a2,
          by show (s.birth n ps).iu.g1.queue.length ≤ _; rw [b6]; exact a3,
          by show (s.birth n ps).iu.g2.queue.length ≤ _; rw [b6]; exact a4,
          by show (s.birth n ps).rc.billets.length ≤ _; rw [b5]; exact a5,
          by show (s.birth n ps).tps.attempts ≤ _; rw [b7]; exact a6⟩
      show (s.birth n ps).pt.queue.length ≤ Config.transitQueue
      have a1' : s.pt.queue.length ≤ Config.transitQueue := a1
      unfold State.birth
      split
      · exact a1'
      · split
        · rename_i hl
          show (s.pt.queue ++ [n]).length ≤ Config.transitQueue
          rw [List.length_append]
          exact hl
        · exact a1'
    · show billetsOrdered (s.birth n ps).rc.billets
      rw [b5]; exact k
    · obtain ⟨c1, c2, c3, -⟩ := birth_queue s n ps (fun m hm => by have := k.2.1 m hm; omega) hp k
      refine ⟨c1, fun m hm => ?_, c3⟩
      show m ≤ (f (s.birth n ps).cps).cutCounter
      rw [b8, hf]; exact c2 m hm
  cases b
  · exact H _ ⟨(s.birth n ps).swm, rfl⟩
  · obtain ⟨sw, hh⟩ := hitAll_eq (s.birth n ps) ch
    exact H _ ⟨sw, hh⟩

/-- A recorded cut (R132, R138). -/
theorem recordCut_sound (s : State) (c : Coord) (r f) : Sound s (s.recordCut c r f) := by
  unfold State.recordCut
  dsimp only
  have C := cutFold_all r s.activeStrands { s := s, pieces := [], ch := { gone := [], written := [] } } [] (s := s) (n :=
      s.cps.cutCounter + 1) (h := s.head) (c := c) (f := f)
    ⟨rfl, rfl, rfl, rfl, rfl, rfl, rfl, rfl, rfl, rfl, rfl, rfl, rfl, by simp, by simp⟩
  have CG : Kept s (s.activeStrands.foldl (SetWork.cutStrand (s.cps.cutCounter + 1) s.head c r f)
      { s := s, pieces := [], ch := { gone := [], written := [] } }).s := by
    have : ∀ (l : List Strand) (w : SetWork), Kept w.s (l.foldl (SetWork.cutStrand (s.cps.cutCounter + 1) s.head c r f) w).s :=
        by
      intro l; induction l with
      | nil => intro w; exact Kept.refl _
      | cons x l ih =>
        intro w
        refine Kept.trans ?_ (ih _)
        show Kept w.s (SetWork.cutStrand _ _ _ _ _ w x).s
        unfold SetWork.cutStrand
        dsimp only
        refine (kept_takePiece w.s r).trans ?_
        unfold State.cutTrack
        split
        · split
          · rename_i h; exact (takeZone_some h).2.2.trans ((kept_setTrack _ _ _).trans (kept_setFirst _ _ _))
          · exact (kept_setTrack _ _ _).trans (kept_setFirst _ _ _)
        · exact (kept_setTrack _ _ _).trans (kept_setFirst _ _ _)
    exact this s.activeStrands { s := s, pieces := [], ch := { gone := [], written := [] } }
  rw [List.nil_append] at C
  generalize List.foldl (SetWork.cutStrand (s.cps.cutCounter + 1) s.head c r f) _ s.activeStrands = w at *
  refine ((Sound.kept CG).trans ?_).trans (billetDrop_sound _)
  have := birth_sound w.s (s.cps.cutCounter + 1) w.pieces (by rw [C.cps]) (fun q hq _ => (C.each q hq).2.2.1) (fun k =>
      { k with cutCounter := s.cps.cutCounter + 1, lastCut := some (c, s.cps.cutCounter + 1) }) rfl w.ch true
  exact this

/-- The strands of a tail release (R38). -/
theorem releaseFold_facts (n t) : ∀ (l : List Strand) (w : SetWork), (∀ q ∈ w.pieces, q.cutNumber = n)
    → Kept w.s (l.foldl (SetWork.releaseStrand n t) w).s ∧ ∀ q ∈ (l.foldl (SetWork.releaseStrand n t) w).pieces, q.cutNumber = n
  | [], w, h => ⟨Kept.refl _, h⟩
  | x :: l, w, h => by
    have one : Kept w.s (w.releaseStrand n t x).s ∧ ∀ q ∈ (w.releaseStrand n t x).pieces, q.cutNumber = n := by
      unfold SetWork.releaseStrand
      dsimp only
      split
      · refine ⟨(kept_takePiece w.s false).trans ((kept_setTrack _ _ _).trans (kept_setFirst _ _ _)), fun q hq => ?_⟩
        rw [List.mem_append, List.mem_singleton] at hq
        rcases hq with hq | rfl
        · exact h q hq
        · rfl
      · exact ⟨(kept_freeZones _ _).trans (kept_setTrack _ _ _), h⟩
    obtain ⟨g1, g2⟩ := releaseFold_facts n t l _ one.2
    exact ⟨one.1.trans g1, g2⟩

/-- The queues at a return to IDLE (R92). -/
theorem rest_length (u : Iu) (g) : (u.rest.link g).queue.length ≤ (u.link g).queue.length := by cases g <;> exact Nat.zero_le _

/-- The end of DRAINING (R39). -/
theorem drainEnd_sound (s : State) : Sound s s.drainEnd := by
  unfold State.drainEnd
  split
  · refine Same.sound ?_
    refine Same.trans ?_ (same_dark _)
    refine Same.trans ?_ (same_pt _ rfl rfl)
    refine Same.trans ?_ (Same.of_kept (kept_restSaw _))
    refine Same.trans ?_ (same_iu _ (rest_length _))
    exact (same_enter s _).trans (same_rc _ rfl)
  · exact Sound.refl _

/-- A tail release (R38). -/
theorem releaseTail_sound (s : State) (t : Coord) : Sound s (s.releaseTail t) := by
  unfold State.releaseTail
  dsimp only
  obtain ⟨K, -⟩ := sawAtRelease_facts s
  generalize s.sawAtRelease = s1 at *
  obtain ⟨R, r⟩ := releaseFold_facts (s1.cps.cutCounter + 1) t s1.activeStrands
      { s := s1, pieces := [], ch := { gone := [], written := [] } } (by simp)
  generalize List.foldl (SetWork.releaseStrand (s1.cps.cutCounter + 1) t) _ s1.activeStrands = w at *
  refine (Sound.kept (K.trans R)).trans ((?_ : Sound w.s _).trans (drainEnd_sound _))
  refine Sound.trans (Sound.trans (Sound.trans ?_ (same_rc _ rfl).sound) (Sound.kept (kept_hitAll _ _))) (billetDrop_sound _)
  split
  · exact Sound.refl _
  · have hc : w.s.cps.cutCounter = s1.cps.cutCounter := (Same.of_kept R).cnt
    have := birth_sound w.s (s1.cps.cutCounter + 1) w.pieces (by rw [hc]) (fun q hq _ => r q hq) (fun k =>
        { k with cutCounter := s1.cps.cutCounter + 1 }) rfl w.ch false
    exact this

/-- A tail release where it is due (R38). -/
theorem tryRelease_sound (s : State) : Sound s s.tryRelease := by
  unfold State.tryRelease
  split
  · split
    · exact releaseTail_sound _ _
    · exact Sound.refl _
  · exact Sound.refl _

/-- The hand-ons of a free (R157). -/
theorem afterFree_sound (s : State) (o) : Sound s (s.afterFree o) := by
  cases o
  · exact (((billetDrop_sound s).trans (tryRelease_sound _)).trans (drainEnd_sound _)).trans (Sound.kept (kept_judgeGo _))
  · exact (((billetDrop_sound s).trans (Sound.kept (kept_judgeGo _))).trans (tryRelease_sound _)).trans (drainEnd_sound _)

/-- One piece freed (R156). -/
theorem freePiece_same (s : State) (p) : Same s (s.freePiece p) := by
  unfold State.freePiece
  refine Same.trans ?_ (Same.of_kept (kept_hitAll _ _))
  refine Same.trans (b := (s.freeZones p.zones).freePieceSlot p.key) ((Same.of_kept ((kept_freeZones s _).trans
      (kept_freePieceSlot _ _)))) ?_
  exact ⟨rfl, grow_refl _, rfl, rfl, rfl, rfl, fun _ => le_refl _, le_refl _, rfl, fun q hq h => ⟨q, (List.mem_filter.1 hq).1,
      h, rfl⟩⟩

end Sys2Proof.Machine
end

