-- ==== Sys2Proof/Tests/Slice0.lean ====
section
/-! SUPPORT. Tests of one step each on small states, the smoke tests of well-formedness, and the witnesses of the statements' hypotheses. -/

namespace Sys2Proof.Tests

open Sys2Proof Machine

set_option Elab.async false

/-! ### Small states -/

/-- What the state that a command leaves shows; false where the command stops. -/
def leaves (c : Instr) (s : State) (f : State → Bool) : Bool :=
  match exec c s with
  | .next t => f t
  | .fault _ => false
  | .refused _ => false

/-- The REPLY to the latest message. -/
def answered (t : State) (f : Reply → Bool) : Bool := match t.lp.reply with | some r => f r | none => false

/-- Whether a request has ended with an error code and fields. -/
def ended (e : ErrCode) (fields : List Byte) (t : State) : Bool :=
  match t.lp.result with
  | some r => r.error == e && r.fields == fields && t.lp.lastError == e && t.lp.port == .ready
  | none => false

/-- Whether a snapshot waits to be fetched. -/
def offers (n : ReqName) (t : State) : Bool := t.lp.port == .dataOut (.snapshot n)

/-- A configuration record that passes every check of R21. -/
def record0 : LineRecord :=
  { dG0 := 10, dG1 := 20, dG2 := 30, dMK := 40, dSAW := 50, latG0 := 0, latG1 := 0, latG2 := 0, pullerMode := 1, aEnable := 0,
    aMode := 2, aScale := 1024, bEnable := 0, bMode := 2, bScale := 1024, gapLimit := 100, cutTimeout := 500, lead := 5,
    minMark := 2, minGap := 2, idlePolicy := 0, markerEnables := 15 }

/-- The default template with a nose, bands, a weld length and one feature at G0. -/
def template0 : Template :=
  { Template.defaults with noseLen := 70, weldLen := 30, stopBefore := 10, stopAfter := 20, endScrap := 40, nOut := 1, mIn := 1,
                           features := [{ nominal := 100, lower := 5, upper := 5, station := .g0, severity := .scrap }],
                           flaws := Vector.replicate 8 .review }

/-- A zone of strand 0. -/
def zone (slot start : Nat) (p : ZonePlace) : Zone :=
  { key := { slot := slot, seq := 0 }, strand := 0, start := start, place := p, conds := 0, severity := .none, override := none,
    billet := 1, generation := 1, findings := [], truncated := false }

/-- Channel A or B, enabled in X4. -/
def chan0 : Channel := Channel.idle true .x4 1024 Phases.low

/-- IDLE, configured, a template in PENDING and in slot 3. -/
def idle0 : State :=
  { State.reset with line := { valid := true, cfg := record0.config },
                     tcu := { Tcu.reset with chA := chan0, chB := chan0 },
                     tps := { Tps.reset with work := some template0.sealed, library := (Vector.replicate 16 none).set 3 (some template0.sealed) },
                     choice := { script := [0, 0, 0, 0], drawn := 0 } }

/-- RUNNING at L = 1,000 with strand 0 active: one open zone from 200, billet 1, the saw READY without a plan. -/
def run0 : State :=
  { idle0 with tcu := { idle0.tcu with L := 1000, Lhw := 1000 },
               rc := { Rc.reset with run := .running, active := 1,
                                     billets := [{ ordinal := 1, start := 0, stop := none, noChangeStops := false }] },
               ts := { Ts.reset with free := List.range 40, tracks := (Vector.replicate 4 []).set 0 [zone 99 200 .opened],
                                     first := (Vector.replicate 4 0).set 0 200 },
               tps := { idle0.tps with active := some { template := template0, generation := 1 } },
               cps := { Cps.reset with saw := .ready, noPlan := .count } }

/-- RUNNING with the travel events of L = 1,000 not yet taken. -/
def moved0 : State := { run0 with travel := { rc := some 990, iu := some 990, cps := some 990, swm := some 990 } }

/-- PLANNED at 900, SAW-READY high: the threshold (L − d_SAW = 950) is reached. -/
def planned0 : State :=
  { moved0 with cps := { Cps.reset with saw := .planned, plan := some 960 }, pins := { moved0.pins with sawReady := true } }

/-- GO with its reservation. -/
def go0 : State :=
  { run0 with cps := { Cps.reset with saw := .go, plan := some 950, timeout := some 500 }, ts := { run0.ts with setAside := 1 },
              pt := { Pt.reset with setAside := 1 } }

/-- A piece of strand 0, [100, 200), of cut set 7. -/
def piece0 (st : PieceState) : Piece :=
  { key := { slot := 2, seq := 0 }, strand := 0, cutNumber := 7, head := 100, tail := 200,
    zones := [zone 98 100 (.cut 200 { slot := 2, seq := 0 })], verdict := .prime, state := st, unplanned := false, late := false,
    shifted := false, tailFlag := false, amended := false }

/-- RUNNING with that piece ARRIVED. -/
def arrived0 : State :=
  { run0 with pt := { Pt.reset with free := [0, 1, 3], pieces := [piece0 .arrived] }, cps := { run0.cps with cutCounter := 7 } }

/-- RUNNING with that piece in transit. -/
def transit0 : State :=
  { run0 with pt := { Pt.reset with free := [0, 1, 3], pieces := [piece0 .transit], queue := [7] }, cps := { run0.cps with cutCounter := 7 } }

/-- The port in a state. -/
def inPort (s : State) (p : PortState) : State := { s with lp := { s.lp with port := p } }

/-- The die run in a state. -/
def inRun (s : State) (r : RunState) : State := { s with rc := { s.rc with run := r } }

/-- The protection state, with a LINE code held. -/
def inProtection (s : State) (p : Protection) : State :=
  { s with tps := { s.tps with protection := p, lineCode := some (List.replicate 16 1#8) } }

/-- The saw in a state. -/
def inSaw (s : State) (x : SawState) : State := { s with cps := { s.cps with saw := x } }

/-- A gauge frame with its CRC-16. -/
def gaugeFrame (bs : List Byte) : List Byte := bs ++ enc2 (crc16 bs).toNat

/-- A MEASURE of feature 0 on strand 0 at 200 µm. -/
def measureFrame : List Byte := gaugeFrame [0xA5#8, 0#8, 0#8, 0#8, 0#8, 0#8, 200#8]

/-- The report it makes at L = 1,000. -/
def measure0 : Report := { kind := .measure 0 0 200, coord := some 990, generation := some 1 }

/-- A link's queue of run0 at G0. -/
def queued (s : State) (q : List Report) : State := { s with iu := { s.iu with g0 := { s.iu.g0 with queue := q } } }

/-! ### One step, command by command -/

theorem test_poll : leaves .poll State.reset (answered · fun r => r.answer == .none && r.port == .ready) = true := by decide +kernel
theorem test_poll_busy : leaves .poll (inPort idle0 (.busy (.load 3))) (answered · fun r => r.port == .busy) = true := by decide +kernel
theorem test_fetch_ready : leaves .fetch idle0 (answered · fun r => r.answer == .aborted) = true := by decide +kernel
theorem test_fetch_snapshot : leaves .fetch (inPort idle0 (.dataOut (.snapshot .readLine))) (fun t =>
    ended .none [] t && hasCause t.lp.alerts.pendingSet .requestDone && answered t fun r => r.lastMark) = true := by decide +kernel
theorem test_put : leaves (.put (List.replicate 15 0#8)) (inPort run0 (.dataIn { count := 1, block := 4, next := 0, waiting := [] }))
    (fun t => t.lp.port.waiting == 1) = true := by decide +kernel
theorem test_put_wrong_shape : leaves (.put [0#8]) (inPort run0 (.dataIn { count := 1, block := 4, next := 0, waiting := [] }))
    (ended .range []) = true := by decide +kernel
theorem test_abort : leaves .abort (inPort idle0 (.busy (.load 3))) (ended .aborted []) = true := by decide +kernel
theorem test_reset_port : leaves .resetPort (inPort idle0 (.busy (.load 3))) (fun t => t.lp.port == .ready && t.lp.result == none) = true := by
  decide +kernel
theorem test_set_line : leaves (.setLine record0) State.reset (fun t => t.line.valid && t.tcu.chA.enable && ended .none [] t) = true := by
  decide +kernel
theorem test_set_line_field : leaves (.setLine { record0 with dG1 := 10 }) State.reset (fun t =>
    t.lp.fault == some { request := .setLine, error := .range, item := .field 2 0, done := 0, overrun := false }) = true := by decide +kernel
theorem test_read_line : leaves .readLine idle0 (fun t => offers .readLine t && t.lp.buffer.take 4 == [0#8, 0#8, 0#8, 10#8]) = true := by
  decide +kernel
theorem test_read_channels : leaves .readChannels { idle0 with tcu := { idle0.tcu with chA := { chan0 with illegal := true } } }
    (fun t => offers .readChannels t && !t.tcu.chA.illegal) = true := by decide +kernel
theorem test_start_run : leaves .startRun idle0 (fun t =>
    t.rc.run == .armed && t.track 0 == [{ zone 0 0 .opened with conds := condMask .nose }]) = true := by decide +kernel
theorem test_start_run_unconfigured : leaves .startRun State.reset (ended .aborted []) = true := by decide +kernel
theorem test_no_billet_change : leaves .noBilletChange (inRun run0 .dead) (fun t => t.rc.deadNote) = true := by decide +kernel
theorem test_end_run : leaves (.endRun .atOnce) run0 (fun t =>
    t.rc.run == .draining && t.rc.tail == some 1000
      && t.track 0 == [zone 99 200 (.closed 960), { zone 0 960 (.closed 1000) with conds := condMask .tailBand }]) = true := by decide +kernel
theorem test_end_run_idle : leaves (.endRun .atOnce) idle0 (ended .aborted []) = true := by decide +kernel
theorem test_abandon_run : leaves .abandonRun transit0 (fun t =>
    t.rc.run == .idle && t.pt.pieces == [] && t.pt.queue == [] && t.track 0 == [] && t.cps.saw == .held) = true := by decide +kernel
theorem test_read_billets : leaves .readBillets run0 (fun t => offers .readBillets t && t.lp.buffer.take 2 == [2#8, 1#8]) = true := by decide +kernel
theorem test_read_pool : leaves .readPool run0 (fun t => offers .readPool t && t.lp.buffer.take 2 == [0#8, 40#8]) = true := by decide +kernel
theorem test_read_inspection : leaves (.readInspection 0) run0 (offers .readInspection) = true := by decide +kernel
theorem test_read_inspection_strand : leaves (.readInspection 4) run0 (ended .range []) = true := by decide +kernel
theorem test_edit_template : leaves (.editTemplate 9 0 7000) idle0 (fun t => (t.tps.work.map (·.target)) == some 7000) = true := by decide +kernel
theorem test_edit_template_value : leaves (.editTemplate 9 0 4999) idle0 (ended .range []) = true := by decide +kernel
theorem test_load_template : leaves (.loadTemplate 3) idle0 (fun t => t.lp.port == .busy (.load 3)) = true := by decide +kernel
theorem test_load_invalid : leaves (.loadTemplate 4) idle0 (ended .check []) = true := by decide +kernel
set_option maxRecDepth 20000 in
theorem test_load_completion : leaves (.loadCompletion none) { inPort idle0 (.busy (.load 3)) with tps := { idle0.tps with work := none } }
    (fun t => t.tps.work == some template0.sealed && t.lp.port == .ready) = true := by decide +kernel
set_option maxRecDepth 20000 in
theorem test_load_mismatch : leaves (.loadCompletion (some { template0.sealed with target := 5001 })) (inPort idle0 (.busy (.load 3)))
    (fun t => ended .check [] t && t.tps.library[3] == none) = true := by decide +kernel
theorem test_store_template : leaves (.storeTemplate 3) idle0 (fun t => t.lp.port == .busy (.store 3) && t.tps.library[3] == none) = true := by
  decide +kernel
set_option maxRecDepth 20000 in
theorem test_store_completion : leaves (.storeCompletion none) (inPort idle0 (.busy (.store 5)))
    (fun t => t.tps.library[5] == some template0.sealed && t.lp.lastError == .none) = true := by decide +kernel
theorem test_store_failed : leaves (.storeCompletion (some Template.defaults)) (inPort idle0 (.busy (.store 5)))
    (fun t => t.tps.deviceFault && ended .deviceFault [] t) = true := by decide +kernel
theorem test_read_template : leaves (.readTemplate 16) idle0 (offers .readTemplate) = true := by decide +kernel
theorem test_read_template_empty : leaves (.readTemplate 17) idle0 (ended .notFound []) = true := by decide +kernel
set_option maxRecDepth 20000 in
theorem test_library_read_completion : leaves (.libraryReadCompletion none) (inPort idle0 (.busy (.readSlot 3)))
    (fun t => offers .readTemplate t && t.lp.buffer == encTemplate template0.sealed) = true := by decide +kernel
theorem test_read_library : leaves .readLibrary idle0 (fun t => offers .readLibrary t && t.lp.buffer.head? == some 1#8) = true := by decide +kernel
theorem test_commit_template : leaves .commitTemplate run0 (fun t =>
    ended .none [2#8, 0#8, 0#8, 3#8, 232#8] t && (t.tps.previous.map (·.generation)) == some 1
      && (t.track 0).map (fun z => (z.start, z.generation)) == [(200, 1), (1000, 2)]) = true := by decide +kernel
theorem test_commit_idle : leaves .commitTemplate idle0 (ended .aborted []) = true := by decide +kernel
theorem test_unlock : leaves (.unlock 0 (List.replicate 16 1#8)) (inProtection idle0 .locked)
    (fun t => t.tps.protection == .opened && ended .none [5#8] t) = true := by decide +kernel
theorem test_unlock_wrong : leaves (.unlock 0 (List.replicate 16 2#8)) (inProtection idle0 .locked)
    (fun t => t.tps.protection == .locked && ended .locked [4#8] t) = true := by decide +kernel
theorem test_set_code : leaves (.setCode 0 0 (List.replicate 16 1#8) 1) idle0
    (fun t => t.lp.port == .busy (.codeWrite (.setLine (List.replicate 16 1#8) .strict))) = true := by decide +kernel
theorem test_set_code_locked : leaves (.setCode 1 1 [] 0) (inProtection idle0 .locked) (ended .locked []) = true := by decide +kernel
theorem test_code_write_completion : leaves (.codeWriteCompletion true) (inPort idle0 (.busy (.codeWrite (.setLine [1#8] .strict))))
    (fun t => t.tps.protection == .opened && t.tps.lineCode == some [1#8] && t.tps.level == .strict) = true := by decide +kernel
theorem test_code_write_failed : leaves (.codeWriteCompletion false) (inPort idle0 (.busy (.codeWrite .removeLine)))
    (fun t => t.tps.deviceFault && ended .deviceFault [] t) = true := by decide +kernel
theorem test_lock : leaves .lock (inProtection idle0 .opened) (fun t => t.tps.protection == .locked) = true := by decide +kernel
theorem test_freeze_codes : leaves .freezeCodes idle0 (fun t => t.tps.frozen) = true := by decide +kernel
theorem test_read_protection : leaves .readProtection idle0
    (fun t => offers .readProtection t && t.lp.buffer == [0#8, 0#8, 0#8, 5#8, 0#8, 0#8, 0#8]) = true := by decide +kernel
theorem test_saw_hold : leaves .sawHold planned0 (fun t => t.cps.saw == .held && t.cps.plan == none && ended .none [4#8, 1#8] t) = true := by
  decide +kernel
theorem test_saw_release : leaves .sawRelease { run0 with cps := { Cps.reset with holdNote := true } }
    (fun t => t.cps.saw == .planned && t.cps.plan == some 60200) = true := by decide +kernel
theorem test_clear_saw_fault : leaves .clearSawFault (inSaw go0 .fault) (fun t =>
    t.ts.setAside == 0 && t.pt.setAside == 0 && t.cps.saw == .planned) = true := by decide +kernel
theorem test_read_saw : leaves .readSaw run0 (fun t => offers .readSaw t && t.lp.buffer.head? == some 0#8) = true := by decide +kernel
theorem test_retire_piece : leaves (.retirePiece { slot := 2, seq := 0 } .releaseFirst) arrived0 (fun t =>
    t.pt.pieces == [] && t.pt.free == [0, 1, 2, 3] && t.pt.seqs[2] == 1#16 && t.ts.seqs[98] == 1#16) = true := by decide +kernel
theorem test_retire_transit : leaves (.retirePiece { slot := 2, seq := 0 } .sawFirst) transit0 (ended .aborted []) = true := by decide +kernel
theorem test_remove_cut_set : leaves (.removeCutSet 7 .sawFirst) transit0 (fun t =>
    t.pt.pieces == [] && t.pt.queue == [] && ended .none [0#8, 7#8, 1#8] t) = true := by decide +kernel
theorem test_read_piece_by_key : leaves (.readPieceByKey { slot := 2, seq := 0 }) arrived0 (offers .readPiece) = true := by decide +kernel
theorem test_read_piece_stale : leaves (.readPieceByKey { slot := 2, seq := 1 }) arrived0 (ended .stale []) = true := by decide +kernel
theorem test_read_piece_by_coordinate : leaves (.readPieceByCoordinate 0 (.abs 199)) arrived0 (offers .readPiece) = true := by decide +kernel
theorem test_read_piece_tail : leaves (.readPieceByCoordinate 0 (.abs 200)) arrived0 (ended .notFound []) = true := by decide +kernel
theorem test_list_arrived : leaves .listArrived arrived0 (fun t => t.lp.port == .dataOut (.arrived none 0)) = true := by decide +kernel
theorem test_read_transit : leaves .readTransit transit0
    (fun t => offers .readTransit t && t.lp.buffer.take 3 == [1#8, 0#8, 7#8]) = true := by decide +kernel
theorem test_mark_test : leaves (.markTest 2 1 0) idle0
    (fun t => t.swm.lines[2] == { on := true, onPoint := none, isolated := true }
      && ended .none [1#8, 1#8, 0#8, 1#8, 0#8, 0#8, 1#8, 0#8] t) = true := by decide +kernel
theorem test_mark_test_running : leaves (.markTest 2 1 0) run0 (ended .aborted []) = true := by decide +kernel
theorem test_read_markers : leaves .readMarkers run0 (offers .readMarkers) = true := by decide +kernel
theorem test_find_zone : leaves (.findZone 0 (.abs 999)) run0 (offers .findZone) = true := by decide +kernel
theorem test_find_zone_at_L : leaves (.findZone 0 (.abs 1000)) run0 (ended .notFound []) = true := by decide +kernel
theorem test_read_zones : leaves (.readZones 0 (.abs 200) 5 2) run0 (fun t =>
    t.lp.port == .dataOut (.zones { strand := 0, count := 5, block := 2, q := 200, delivered := 0 })) = true := by decide +kernel
theorem test_read_zones_count : leaves (.readZones 0 (.abs 200) 0 2) run0 (ended .range []) = true := by decide +kernel
theorem test_walk_zones : leaves (.walkZones 0 (.continue_ 1000)) run0 (offers .walkZones) = true := by decide +kernel
theorem test_walk_zones_stale : leaves (.walkZones 0 (.continue_ 150)) run0 (ended .stale []) = true := by decide +kernel
theorem test_hold_span : leaves (.holdSpan 0 (.abs 300) (.abs 400) .claimFirst) run0 (fun t =>
    (t.track 0).map (fun z => (z.start, z.conds)) == [(200, 0), (300, condMask .held), (400, 0)]) = true := by decide +kernel
theorem test_hold_span_ahead : leaves (.holdSpan 0 (.abs 300) (.abs 1100) .entryFirst) run0 (fun t =>
    (t.rc.future[(0 : Strand)]).held == some 1100
      && (t.track 0).map (fun z => (z.start, z.conds)) == [(200, 0), (300, condMask .held)]) = true := by decide +kernel
theorem test_release_hold : leaves (.releaseHold 0 (.abs 200) (.abs 900) .claimFirst)
    { run0 with ts := { run0.ts with tracks := (Vector.replicate 4 []).set 0 [{ zone 97 200 (.closed 900) with conds := condMask .held }, zone 99 900 .opened] } }
    (fun t => (t.track 0).map (fun z => (z.start, z.conds)) == [(200, 0)]) = true := by decide +kernel
theorem test_override : leaves (.overrideZone { slot := 99, seq := 0 } 2) run0
    (fun t => (t.track 0).map (·.override) == [some .scrap] && ended .none [0#8, 99#8, 0#8, 0#8, 2#8] t) = true := by decide +kernel
theorem test_override_stale : leaves (.overrideZone { slot := 99, seq := 1 } 2) run0 (ended .stale []) = true := by decide +kernel
theorem test_hold_spans : leaves (.holdSpans 3 2) run0
    (fun t => t.lp.port == .dataIn { count := 3, block := 2, next := 0, waiting := [] }) = true := by decide +kernel
theorem test_hold_spans_span_apply : leaves (.holdSpansSpanApply .claimFirst)
    (inPort run0 (.dataIn { count := 1, block := 1, next := 0, waiting := [{ strand := 0, first := .abs 300, second := .abs 400 }] }))
    (fun t => ended .none [0#8, 1#8] t && (t.track 0).length == 3) = true := by decide +kernel
theorem test_hold_spans_span_fails : leaves (.holdSpansSpanApply .claimFirst)
    (inPort run0 (.dataIn { count := 1, block := 1, next := 0, waiting := [{ strand := 0, first := .abs 400, second := .abs 400 }] }))
    (ended .range []) = true := by decide +kernel
theorem test_read_fault : leaves .readFault idle0 (offers .readFault) = true := by decide +kernel
theorem test_clear_fault : leaves .clearFault
    { idle0 with lp := { idle0.lp with fault := some { request := .lock, error := .aborted, item := .none, done := 0, overrun := true } } }
    (fun t => t.lp.fault == none) = true := by decide +kernel
theorem test_ack_alerts : leaves (.ackAlerts 6#13) { idle0 with lp := { idle0.lp with alerts := { idle0.lp.alerts with pendingSet := 3#13 } } }
    (fun t => t.lp.alerts.pendingSet == 1#13 && ended .none [0#8, 1#8] t) = true := by decide +kernel
theorem test_raise_soft : leaves (.raiseSoft 12) idle0 (fun t => t.lp.alerts.pendingSet == 4096#13) = true := by decide +kernel
theorem test_raise_soft_range : leaves (.raiseSoft 10) idle0 (ended .range []) = true := by decide +kernel
theorem test_set_alert_mask : leaves (.setAlertMask 2#13 true) { idle0 with lp := { idle0.lp with alerts := { idle0.lp.alerts with pendingSet := 3#13 } } }
    (fun t => answered t fun r => r.alert && r.enable) = true := by decide +kernel
theorem test_phase_sample : leaves (.phaseSample .a true false) idle0
    (fun t => t.tcu.L == 1 && t.tcu.chA.count == 1#32 && t.travel.rc == some 0) = true := by decide +kernel
theorem test_phase_sample_illegal : leaves (.phaseSample .a true true) idle0
    (fun t => t.tcu.L == 0 && t.tcu.chA.illegal && hasCause t.lp.alerts.pendingSet .encoder) = true := by decide +kernel
theorem test_handover : leaves .handover run0 (fun t => t.tcu.puller == .b && t.tcu.L == 1000 && t.tcu.Lbase == 1000) = true := by decide +kernel
theorem test_handover_stray : leaves .handover idle0 (fun t => hasCause t.lp.alerts.pendingSet .stray && t.tcu == idle0.tcu) = true := by decide +kernel
theorem test_cut_done : leaves .cutDone go0 (fun t =>
    t.cps.saw == .return_ && t.cps.lastCut == some (950, 1) && t.pt.queue == [1] && t.pt.pieces.map (fun p => (p.head, p.tail)) == [(200, 950)]
      && (t.track 0).map (·.start) == [950]) = true := by decide +kernel
theorem test_cut_done_held : leaves .cutDone (inSaw run0 .held) (fun t =>
    hasCause t.lp.alerts.pendingSet .stray && t.cps.latestCapture == some 950 && t.pt.pieces == []) = true := by decide +kernel
theorem test_press_run_rising : leaves (.pressRunRising .atOnce) (inSaw (inRun run0 .armed) .held)
    (fun t => t.rc.run == .running && t.cps.plan == some 60200) = true := by decide +kernel
theorem test_press_run_rising_dead : leaves (.pressRunRising .atOnce) (inRun run0 .dead) (fun t =>
    t.rc.billets.map (·.start) == [0, 1000] && (t.rc.future[(0 : Strand)]).stop == some 1020 && (t.rc.future[(0 : Strand)]).weld == some 1030
      && (t.track 0).map (fun z => (z.start, z.conds))
        == [(200, 0), (990, condMask .stop), (1000, condMask .stop ||| condMask .weld)]) = true := by decide +kernel
theorem test_press_run_falling : leaves .pressRunFalling run0 (fun t =>
    t.rc.run == .dead && t.rc.billets.map (·.stop) == [some 1000] && hasCause t.lp.alerts.pendingSet .runState) = true := by decide +kernel
theorem test_saw_ready_rising : leaves .sawReadyRising (inSaw run0 .return_) (fun t => t.pins.sawReady && t.cps.saw == .planned) = true := by decide +kernel
theorem test_saw_ready_falling : leaves .sawReadyFalling planned0 (fun t => !t.pins.sawReady && t.cps.saw == .planned) = true := by decide +kernel
theorem test_end_eye : leaves .endEye transit0 (fun t =>
    t.pt.queue == [] && t.pt.pieces.map (·.state) == [.arrived] && hasCause t.lp.alerts.pendingSet .arrived) = true := by decide +kernel
theorem test_end_eye_head : leaves .endEye run0 (fun t => t.pt.headMark && t.lp.alerts.pendingSet == 0) = true := by decide +kernel
set_option maxRecDepth 20000 in
theorem test_hardware_reset : leaves .hardwareReset (inProtection transit0 .opened)
    (fun t => t.rc.run == .idle && t.tps.protection == .locked && t.tps.library[3] == some template0.sealed && t.tps.work == none) = true := by decide +kernel
theorem test_report_arrival : leaves (.reportArrival .g0 measureFrame) run0
    (fun t => t.iu.g0.answer == some .taken && t.iu.g0.queue == [measure0]) = true := by decide +kernel
theorem test_report_arrival_full : leaves (.reportArrival .g0 measureFrame) (queued run0 (List.replicate 16 measure0))
    (fun t => t.iu.g0.answer == some .full && t.iu.g0.queue.length == 16) = true := by decide +kernel
theorem test_gauge_framing_error : leaves (.gaugeFramingError .g1)
    { run0 with iu := { run0.iu with g1 := { run0.iu.g1 with frameOpen := true } } } (fun t => t.iu.g1.answer == some .refused && !t.iu.g1.frameOpen) = true := by
  decide +kernel
theorem test_gauge_frame_expiry : leaves (.gaugeFrameExpiry .g1)
    { run0 with iu := { run0.iu with g1 := { run0.iu.g1 with frameOpen := true } } } (fun t => t.iu.g1.answer == some .refused) = true := by decide +kernel
theorem test_report_evaluation : leaves (.reportEvaluation .g0 .atOnce) (queued run0 [measure0]) (fun t =>
    t.iu.g0.queue == [] && t.iu.g0.covered[0] == 990 && (t.iu.tracker 0 0).state == .out
      && (t.track 0).map (fun z => (z.start, z.conds, z.severity)) == [(200, 0, .none), (990, condMask .dim, .scrap), (991, 0, .none)]) = true := by
  decide +kernel
theorem test_report_evaluation_orphan : leaves (.reportEvaluation .g0 .atOnce) (queued run0 [{ measure0 with generation := some 9 }])
    (fun t => hasCause t.lp.alerts.pendingSet .orphan && t.iu.g0.covered[0] == 0) = true := by decide +kernel
theorem test_future_condition_expiry : leaves .futureConditionExpiry
    { moved0 with rc := { moved0.rc with future := (Vector.replicate 4 FutureList.empty).set 0 { FutureList.empty with nose := some 1000 } },
                  ts := { moved0.ts with tracks := (Vector.replicate 4 []).set 0 [{ zone 99 200 .opened with conds := condMask .nose }] } }
    (fun t => (t.track 0).map (fun z => (z.start, z.conds)) == [(200, condMask .nose), (1000, 0)] && (t.rc.future[(0 : Strand)]).nose == none) = true := by
  decide +kernel
theorem test_tail_release : leaves .futureConditionExpiry
    { inRun moved0 .draining with rc := { moved0.rc with run := .draining, tail := some 950 },
                                  ts := { moved0.ts with tracks := (Vector.replicate 4 []).set 0 [zone 99 200 (.closed 950)] } }
    (fun t => t.track 0 == [] && t.pt.pieces.map (fun p => (p.head, p.tail, p.tailFlag)) == [(200, 950, true)] && t.rc.tailReleased) = true := by decide +kernel
theorem test_coverage_sweep : leaves (.coverageSweep .atOnce) moved0 (fun t =>
    t.iu.g0.covered[0] == 990 && t.travel.iu == none && (t.track 0).map (fun z => (z.start, z.conds)) == [(200, condMask .gap), (990, 0)]) = true := by
  decide +kernel
theorem test_go_threshold : leaves .goThreshold { planned0 with cps := { planned0.cps with plan := some 955 } } (fun t =>
    t.cps.saw == .go && t.ts.setAside == 1 && t.pt.setAside == 1 && t.cps.timeout == some 500) = true := by decide +kernel
theorem test_go_threshold_below : leaves .goThreshold planned0 (fun t => t.cps.saw == .planned && t.travel.cps == none) = true := by decide +kernel
theorem test_cut_timeout_expiry : leaves .cutTimeoutExpiry go0 (fun t =>
    t.cps.saw == .fault && t.ts.setAside == 1 && hasCause t.lp.alerts.pendingSet .sawFault) = true := by decide +kernel
theorem test_window_refill : leaves .windowRefill moved0 (fun t =>
    t.swm.windows[(0 : Strand)] == .valid (zone 99 200 .opened) none && t.travel.swm == none) = true := by decide +kernel
theorem test_condition_claim : leaves (.conditionClaim (.arriving { strand := 0, x1 := 100, x2 := 300, action := .add .surf, severity := .review, finding := none, mandatory := false })) run0
    (fun t => (t.track 0).map (fun z => (z.start, z.conds)) == [(200, condMask .surf), (300, 0)] && hasCause t.lp.alerts.pendingSet .orphan) = true := by
  decide +kernel
theorem test_boundary : leaves (.boundary 0 500 (condMask .weld) 2 1 false) run0 (fun t =>
    (t.track 0).map (fun z => (z.start, z.conds, z.billet)) == [(200, 0, 1), (500, condMask .weld, 2)]) = true := by decide +kernel
theorem test_boundary_coarse : leaves (.boundary 0 500 (condMask .weld) 2 1 false) { run0 with ts := { run0.ts with free := [] } } (fun t =>
    (t.track 0).map (fun z => (z.start, z.conds, z.billet)) == [(200, condMask .weld, 1)] && hasCause t.lp.alerts.pendingSet .coarse) = true := by decide +kernel
theorem test_gauge_frame_start : leaves (.gaugeFrameStart .g2) idle0 (fun t => t.iu.g2.frameOpen) = true := by decide +kernel
theorem test_message_check_failure : leaves (.messageCheckFailure [2#8, 0#8, 0#8, 0#8, 0#8]) idle0 (answered · fun r => r.answer == .check) = true := by
  decide +kernel
theorem test_unknown_request_name : leaves (.unknownRequestName [0x58#8]) idle0 (ended .range []) = true := by decide +kernel
theorem test_step_idle : (match step go0 with | .next t => t.cps.timeout | .fault _ => none | .refused _ => none) = some 499 := by decide +kernel
theorem test_crc : crc16 [0x31#8, 0x32#8, 0x33#8, 0x34#8, 0x35#8, 0x36#8, 0x37#8, 0x38#8, 0x39#8] = 0x29B1#16 := by decide +kernel
theorem test_message_poll : ofMessage { taking := .atOnce, span := .claimFirst, free := .sawFirst } (frameOf 2#8 []) = some .poll := by decide +kernel

/-! ### Well-formedness: one ill-formed term for each check, and a well-formed one beside it -/

/-- Each of a list of commands is refused by the check. -/
def allIll (cs : List Instr) : Bool := cs.all fun c => !c.wf

/-- A key whose slot two bytes cannot carry. -/
def badKey : Key := { slot := 65536, seq := 0 }

/-- Addresses that seven bytes cannot carry. -/
def badAddresses : List Address :=
  [.abs 4294967296, .station 256 0, .station 1 8388608, .station 1 (-8388609), .billet 65536 0, .billet 1 4294967296, .unknown 256, .unknown 2]

/-- A claim on strand 0. -/
def claim0 : Claim :=
  { strand := 0, x1 := 0, x2 := 5, action := .add .dim, severity := .none, finding := some { station := .g0, item := 3, dev := 1, loc := 2 }, mandatory := false }

/-- Templates with one field out of its range. -/
def badTemplates : List Template :=
  [{ template0 with dieNumber := 65536 }, { template0 with strandCount := 0 }, { template0 with strandCount := 5 },
   { template0 with features := List.replicate 13 Feature.first }, { template0 with noseLen := 2000001 }, { template0 with weldLen := 500001 },
   { template0 with stopBefore := 100001 }, { template0 with stopAfter := 100001 }, { template0 with endScrap := 500001 }]
  ++ [{ template0 with target := 4999 }, { template0 with target := 1200001 }, { template0 with minLen := 4999 }, { template0 with minLen := 1200001 },
   { template0 with maxLen := 4999 }, { template0 with maxLen := 1200001 }, { template0 with cutOut := 16 }, { template0 with nOut := 0 },
   { template0 with nOut := 16 }, { template0 with mIn := 0 }, { template0 with mIn := 16 }]
  ++ [{ template0 with features := [{ Feature.first with nominal := 8388608 }] }, { template0 with features := [{ Feature.first with nominal := -8388609 }] },
   { template0 with features := [{ Feature.first with lower := 65536 }] }, { template0 with features := [{ Feature.first with upper := 65536 }] }]

theorem wf_put : allIll [.put [], .put (List.replicate 1201 0#8)] = true ∧ (Instr.put [0#8]).wf = true := by decide +kernel
theorem wf_set_line : allIll [.setLine { record0 with dG0 := 4294967296 }, .setLine { record0 with minGap := 4294967296 }, .setLine { record0 with aMode := 256 },
    .setLine { record0 with markerEnables := 256 }, .setLine { record0 with bScale := 65536 }] = true ∧ (Instr.setLine record0).wf = true := by decide +kernel
theorem wf_bytes : allIll [.readInspection 256, .loadTemplate 256, .storeTemplate 256, .readTemplate 256, .raiseSoft 256, .markTest 256 1 0, .markTest 0 256 0, .markTest 0 1 256] = true
    ∧ [Instr.readInspection 255, .loadTemplate 255, .storeTemplate 255, .readTemplate 255, .raiseSoft 255, .markTest 255 255 255].all Instr.wf = true := by decide +kernel
theorem wf_edit : allIll [.editTemplate 256 0 0, .editTemplate 1 256 0, .editTemplate 1 0 (-2147483649), .editTemplate 1 0 4294967296] = true
    ∧ (Instr.editTemplate 255 255 4294967295).wf = true := by decide +kernel
theorem wf_read_back : allIll (badTemplates.flatMap fun t => [.loadCompletion (some t), .storeCompletion (some t), .libraryReadCompletion (some t)]) = true
    ∧ (Instr.loadCompletion (some template0)).wf = true := by decide +kernel
theorem wf_codes : allIll [.unlock 256 (List.replicate 16 0#8), .unlock 0 (List.replicate 15 0#8), .setCode 256 0 (List.replicate 16 0#8) 0,
    .setCode 0 256 (List.replicate 16 0#8) 0, .setCode 0 0 (List.replicate 17 0#8) 0, .setCode 0 0 (List.replicate 16 0#8) 256] = true
    ∧ (Instr.unlock 1 (List.replicate 16 0#8)).wf = true := by decide +kernel
theorem wf_pieces : allIll [.retirePiece badKey .sawFirst, .readPieceByKey badKey, .removeCutSet 65536 .sawFirst, .readPieceByCoordinate 256 (.abs 0)] = true
    ∧ (Instr.retirePiece { slot := 65535, seq := 0 } .sawFirst).wf = true := by decide +kernel
theorem wf_addresses : allIll (badAddresses.flatMap fun a =>
      [.readPieceByCoordinate 0 a, .findZone 0 a, .readZones 0 a 1 1, .walkZones 0 (.address a), .holdSpan 0 a (.abs 0) .claimFirst, .holdSpan 0 (.abs 0) a .claimFirst,
       .releaseHold 0 a (.abs 0) .claimFirst, .releaseHold 0 (.abs 0) a .claimFirst]) = true
    ∧ (Instr.findZone 255 (.station 255 (-8388608))).wf = true := by decide +kernel
theorem wf_zones : allIll [.findZone 256 (.abs 0), .readZones 256 (.abs 0) 1 1, .readZones 0 (.abs 0) 65536 1, .readZones 0 (.abs 0) 1 256,
    .walkZones 256 (.continue_ 0), .walkZones 0 (.continue_ 4294967296), .walkZones 0 (.unknown 256), .walkZones 0 (.unknown 1), .holdSpan 256 (.abs 0) (.abs 1) .claimFirst,
    .releaseHold 256 (.abs 0) (.abs 1) .claimFirst, .overrideZone badKey 0, .overrideZone { slot := 0, seq := 0 } 256, .holdSpans 65536 1, .holdSpans 1 256] = true
    ∧ (Instr.walkZones 0 (.unknown 2)).wf = true := by decide +kernel
theorem wf_gauge : allIll [.reportArrival .g0 (List.replicate 8 0xA5#8), .reportArrival .g0 (List.replicate 9 0#8)] = true
    ∧ (Instr.reportArrival .g0 measureFrame).wf = true := by decide +kernel
theorem wf_claims : allIll [.conditionClaim (.arriving { claim0 with x1 := 4294967296 }), .conditionClaim (.arriving { claim0 with x2 := 4294967297 }),
    .conditionClaim (.arriving { claim0 with finding := some { station := .g0, item := 12, dev := 1, loc := 2 } }),
    .conditionClaim (.arriving { claim0 with finding := some { station := .g1, item := 8, dev := 1, loc := 2 } }),
    .conditionClaim (.arriving { claim0 with finding := some { station := .g0, item := 0, dev := 2147483648, loc := 2 } }),
    .conditionClaim (.arriving { claim0 with finding := some { station := .g0, item := 0, dev := 1, loc := 4294967296 } }),
    .boundary 0 4294967296 0 1 1 false, .boundary 0 0 0 0 1 false, .boundary 0 0 0 65536 1 false, .boundary 0 0 0 1 0 false, .boundary 0 0 0 1 256 false] = true
    ∧ (Instr.conditionClaim (.arriving claim0)).wf = true ∧ (Instr.boundary 0 0 0 65535 255 true).wf = true := by decide +kernel
theorem wf_messages : allIll [.messageCheckFailure [1#8, 0#8, 0#8, 0#8], .unknownRequestName [], .unknownRequestName (List.replicate 241 0#8)] = true
    ∧ (Instr.unknownRequestName [0#8]).wf = true := by decide +kernel

/-! ### Witnesses: states and operands that meet the hypotheses of each statement, clause by clause -/

/-- RUNNING with two billets, the second from 500. -/
def billets0 : State :=
  { run0 with rc := { run0.rc with billets := [{ ordinal := 1, start := 0, stop := none, noChangeStops := false },
                                               { ordinal := 2, start := 500, stop := none, noChangeStops := false }] } }

/-- DEAD with the die-run note clear, metal moved since the newest billet. -/
def dead0 : State := inRun billets0 .dead

/-- DRAINING, the tail at 950, the track closed there, the travel event waiting. -/
def draining0 : State :=
  { moved0 with rc := { moved0.rc with run := .draining, tail := some 950 },
                ts := { moved0.ts with tracks := (Vector.replicate 4 []).set 0 [zone 99 200 (.closed 950)] } }

/-- A fault context. -/
def fault0 : FaultContext := { request := .lock, error := .aborted, item := .none, done := 0, overrun := false }

/-- A HOLD-SPANS of two spans, one of them waiting. -/
def put0 : SpanPut := { count := 2, block := 2, next := 0, waiting := [{ strand := 0, first := .abs 300, second := .abs 400 }] }

/-- The same with no span waiting. -/
def put1 : SpanPut := { put0 with waiting := [] }

/-- Strand 0 with a HELD entry to 1,200. -/
def held0 : State := { run0 with rc := { run0.rc with future := (Vector.replicate 4 FutureList.empty).set 0 { FutureList.empty with held := some 1200 } } }

/-- A sample of channel A from (0, 0). -/
def phases (a b : Bool) : Phases := { p1 := a, p2 := b }

theorem witness_IdleStepRunsTheTimeout : go0.pending = [] := by decide +kernel

theorem witness_StepKeepsTravelSound : run0.travelSound ∧ ∃ t, step run0 = .next t := by
  refine ⟨?_, _, rfl⟩
  unfold State.travelSound Tcu.sound Channel.sound
  decide +kernel

theorem witness_StepKeepsTablesWithinSizes : transit0.withinSizes ∧ ∃ t, step transit0 = .next t := by
  refine ⟨?_, _, rfl⟩
  unfold State.withinSizes
  decide +kernel

theorem witness_StepKeepsBilletsOrdered : billetsOrdered billets0.rc.billets ∧ ∃ t, step billets0 = .next t :=
  ⟨⟨rfl, by decide +kernel, trivial⟩, _, rfl⟩

theorem witness_CommandsKeepTransitQueueOrdered : transit0.queueOrdered ∧ (∃ t, exec .endEye transit0 = .next t)
    ∧ idle0.queueOrdered ∧ idle0.pt.queue = [] ∧ idle0.pt.pieces = [] ∧ ∃ t, exec .startRun idle0 = .next t := by
  refine ⟨?_, ⟨_, rfl⟩, ?_, rfl, rfl, _, rfl⟩ <;> unfold State.queueOrdered <;> decide +kernel

theorem witness_PendingCausesStay : (∀ m, Instr.poll ≠ .ackAlerts m) ∧ Instr.poll ≠ .resetPort ∧ Instr.poll ≠ .hardwareReset
    ∧ ∃ t, exec .poll run0 = .next t := ⟨nofun, nofun, nofun, _, rfl⟩

theorem witness_MessageFramesAreRead : (∃ b : List Byte, 1 ≤ b.length ∧ b.length = 240) ∧ ∃ b : List Byte, 1 ≤ b.length ∧ b.length = 1200 :=
  ⟨⟨List.replicate 240 0#8, by decide +kernel⟩, List.replicate 1200 0#8, by decide +kernel⟩

theorem witness_FailedMessagesAreAnswered :
    ([0#8, 0#8] : List Byte) ≠ enc2 (crc16 [2#8, 0#8, 0#8]).toNat
    ∧ (∃ crc : List Byte, crc.length = 2 ∧ crc = enc2 (crc16 [7#8, 0#8, 0#8]).toNat)
    ∧ ∃ body crc : List Byte, body.length = 241 ∧ crc.length = 2 ∧ body ≠ [] ∧ crc = enc2 (crc16 ([1#8] ++ enc2 body.length ++ body)).toNat := by
  refine ⟨by decide +kernel, ⟨_, ?_, rfl⟩, List.replicate 241 0#8, _, by decide +kernel, ?_, by decide +kernel, rfl⟩ <;> rfl

theorem witness_RequestsThePortCannotTake : Instr.lock.reqName = some .lock ∧ (inPort idle0 (.busy (.load 3))).lp.port ≠ .ready
    ∧ idle0.lp.port = .ready ∧ idle0.lp.fault = none ∧ ({ idle0.lp with fault := some fault0 } : Lp).port = .ready := by decide +kernel

theorem witness_RepliesShowTheStateLeft : idle0.lp.port = .ready ∧ idle0.lp.result = none
    ∧ (∃ r, ({ idle0.lp with result := some { name := .lock, error := .none, fields := [] } } : Lp).result = some r)
    ∧ (inPort idle0 (.busy (.load 3))).lp.port ≠ .ready ∧ (Instr.readLine.reqName.isSome = true ∧ ∃ t, exec .readLine idle0 = .next t) :=
  ⟨rfl, rfl, ⟨_, rfl⟩, nofun, rfl, _, rfl⟩

theorem witness_SnapshotsAreDelivered : State.reset.lp.port = .ready ∧ 4 ≤ 4 := by decide +kernel

theorem witness_FetchDeliversSnapshotsAndArrivedPieces :
    (inPort idle0 (.dataOut (.snapshot .readLine))).lp.port = .dataOut (.snapshot .readLine)
    ∧ (inPort arrived0 (.dataOut (.arrived none 0))).lp.port = .dataOut (.arrived none 0)
    ∧ (arrived0.pt.arrivedBlock none).length = 1
    ∧ (({ arrived0.pt with pieces := List.replicate 8 (piece0 .arrived) } : Pt).arrivedBlock none).length = 8 := by decide +kernel

theorem witness_FetchAssemblesZoneBlock :
    (arrived0.assemble 0 2 1 100 0).ends = none ∧ (arrived0.assemble 0 2 2 100 0).ends = some .none
    ∧ (arrived0.assemble 0 2 2 50 0).ends = some .notFound := by decide +kernel

theorem witness_FetchAndPutOutOfPlace : (∀ c, idle0.lp.port ≠ .dataOut c) ∧ (∀ p, idle0.lp.port ≠ .dataIn p)
    ∧ 1 ≤ (List.replicate 1200 0#8).length ∧ (List.replicate 1200 0#8).length ≤ 1200 ∧ 1200 < (List.replicate 1201 0#8).length :=
  ⟨nofun, nofun, by decide +kernel, by decide +kernel, by decide +kernel⟩

theorem witness_PutTakesBlockOfRightShape : (inPort run0 (.dataIn put1)).lp.port = .dataIn put1 ∧ put1.waiting = []
    ∧ (List.replicate 30 0#8).length = 15 * min put1.block (put1.count - put1.next)
    ∧ (List.replicate 15 0#8).length ≠ 15 * min put1.block (put1.count - put1.next) := by decide +kernel

theorem witness_AbortEndsRequest : idle0.lp.port = .ready ∧ (inPort run0 (.dataIn put1)).lp.port.waiting = 0
    ∧ (inPort run0 (.dataIn put1)).lp.port.aborts = some (.holdSpans, .span 0, 0) := by decide +kernel

theorem witness_ResetPortClearsThePort : (inPort idle0 (.busy (.load 3))).lp.port.waiting = 0 := by decide +kernel

theorem witness_AlertRequestsAndLine : State.reset.lp.port = .ready ∧ (10 : Nat) ≠ 11 ∧ (10 : Nat) ≠ 12 := by decide +kernel

theorem witness_LineRecordChecks : record0.firstBad = none ∧ ({ record0 with dG1 := 10, lead := 100001 } : LineRecord).firstBad = some 2 := by
  decide +kernel

theorem witness_SetLineTakesWholeRecord : idle0.lp.port = .ready ∧ run0.lp.port = .ready ∧ run0.rc.run ≠ .idle ∧ idle0.rc.run = .idle
    ∧ record0.firstBad = none ∧ ({ record0 with markerEnables := 16 } : LineRecord).firstBad = some 22 := by decide +kernel

theorem witness_SamplesAreDecodedByMode : phases true true ≠ phases false false
    ∧ (State.reset.tcu.chan .a).enable = false ∧ (idle0.tcu.chan .a).enable = true
    ∧ decodePhases (idle0.tcu.chan .a).mode (idle0.tcu.chan .a).last (phases false false) = .nothing
    ∧ decodePhases (idle0.tcu.chan .a).mode (idle0.tcu.chan .a).last (phases true true) = .illegal := by decide +kernel

theorem witness_ConversionLosesNoTravel : (1 : Nat) ≤ 65535 ∧ (65535 : Nat) ≤ 65535 ∧ (1023 : Nat) < 1024 ∧ (convert .up 65535 1023).2 = 64
    ∧ (convert .down 65535 0).2 = 64 := by decide +kernel

theorem witness_CountStepMovesChannelAndLine : (idle0.tcu.chan .a).enable = true ∧ idle0.tcu.puller = .a ∧ idle0.tcu.puller ≠ .b
    ∧ decodePhases (idle0.tcu.chan .a).mode (idle0.tcu.chan .a).last (phases true false) = .step .up
    ∧ decodePhases (idle0.tcu.chan .b).mode (idle0.tcu.chan .b).last (phases false true) = .step .down
    ∧ idle0.tcu.L < (convert .down 1024 0).2 ∧ Config.coordMax < Config.coordMax + (convert .up 1024 0).2 := by decide +kernel

theorem witness_HandoverChangesPullerAndKeepsL : run0.line.cfg.pullerMode = .double ∧ run0.rc.run = .running ∧ idle0.rc.run = .idle
    ∧ (run0.tcu.chan run0.tcu.puller.other).enable = true ∧ (State.reset.tcu.chan .b).enable = false := by decide +kernel

theorem witness_StartRunSetsUpTheRun : run0.rc.run ≠ .idle ∧ State.reset.rc.run = .idle ∧ State.reset.line.valid = false ∧ idle0.line.valid = true
    ∧ ({ idle0.tps with work := none } : Tps).work = none ∧ idle0.tps.work = some template0.sealed
    ∧ template0.sealed.minLen ≤ template0.sealed.target ∧ template0.sealed.target ≤ template0.sealed.maxLen
    ∧ ¬ ({ template0 with target := 5000, minLen := 5001 } : Template).inOrder = true ∧ idle0.lp.port = .ready := by
  refine ⟨nofun, rfl, rfl, rfl, rfl, rfl, ?_, ?_, ?_, rfl⟩ <;> decide +kernel

theorem witness_StartRunOpensFirstZones : idle0.ts.handed = [] ∧ 4 ≤ run0.ts.available ∧ (0 : Nat) < template0.sealed.strandCount := by decide +kernel

theorem witness_PressRunEdgesMoveTheRun : dead0.lp.port = .ready ∧ dead0.rc.run = .dead ∧ run0.rc.run = .running ∧ idle0.rc.run ≠ .armed
    ∧ idle0.rc.run ≠ .dead ∧ (inRun run0 .armed).cps.holdNote = false ∧ run0.rc.billets = [] ++ [{ ordinal := 1, start := 0, stop := none, noChangeStops := false }] := by
  decide +kernel

theorem witness_PressRunEndsDeadCycle : ∃ bs b, dead0.rc.run = .dead ∧ dead0.rc.billets = bs ++ [b] ∧ dead0.rc.deadNote = false ∧ b.ordinal < 65535
    ∧ b.start < dead0.tcu.L ∧ 0 < dead0.activeTemplate.weldLen ∧ dead0.tcu.L < b.stop.getD dead0.tcu.L + dead0.activeTemplate.stopAfter :=
  ⟨[{ ordinal := 1, start := 0, stop := none, noChangeStops := false }], { ordinal := 2, start := 500, stop := none, noChangeStops := false }, by decide +kernel⟩

theorem witness_EndRunByState : idle0.lp.port = .ready ∧ idle0.rc.run = .idle ∧ (inRun run0 .armed).rc.run = .armed ∧ run0.rc.run = .running
    ∧ (openStart? (run0.track 0)).isSome = true ∧ (0 : Strand).val < run0.rc.active := by decide +kernel

theorem witness_AbandonRunFreesEverything : idle0.lp.port = .ready ∧ idle0.rc.run = .idle ∧ transit0.lp.port = .ready ∧ transit0.rc.run ≠ .idle := by
  decide +kernel

theorem witness_TravelAtRunControl : run0.travel.rc = none ∧ moved0.travel.rc.isSome = true ∧ moved0.rc.run = .running ∧ draining0.travel.rc.isSome = true
    ∧ draining0.rc.run = .draining ∧ draining0.rc.tail = some 950 ∧ draining0.rc.tailReleased = false ∧ draining0.line.cfg.dSAW + 950 ≤ draining0.tcu.L
    ∧ (draining0.activeStrands.filter fun st => decide (draining0.ts.first[st] ≠ 950)).length ≤ draining0.pt.free.length := by decide +kernel

theorem witness_EditWritesOneField : (inProtection idle0 .locked).tps.protection = .locked ∧ idle0.tps.protection ≠ .locked
    ∧ (fieldRange 9).1 ≤ 5000 ∧ ¬ (fieldRange 9).1 ≤ 4999 ∧ (0 : Nat) < template0.sealed.features.length ∧ ¬ (1 : Nat) < template0.sealed.features.length := by
  decide +kernel

theorem sealed_verifies (t : Template) : t.sealed.check = t.sealed.computed := by
  simp only [Template.sealed, Template.computed, encTemplateBody]

theorem witness_LoadReplacesPending : idle0.lp.port = .ready ∧ idle0.tps.library[(4 : Fin 16)] = none ∧ (idle0.tps.library[(3 : Fin 16)]).isSome = true
    ∧ (inPort idle0 (.busy (.load 3))).lp.port = .busy (.load 3) ∧ template0.sealed.check = template0.sealed.computed
    ∧ (∀ j, idle0.lp.port ≠ .busy (.load j)) := ⟨rfl, by decide +kernel, by decide +kernel, rfl, sealed_verifies _, nofun⟩

theorem witness_StoreWritesSlot : idle0.tps.protection ≠ .locked ∧ idle0.tps.deviceFault = false ∧ idle0.tps.work = some template0.sealed
    ∧ (inPort idle0 (.busy (.store 5))).lp.port = .busy (.store 5) ∧ template0.sealed.check = template0.sealed.computed
    ∧ (Template.defaults).target ≠ 5000 ∧ (∀ j, idle0.lp.port ≠ .busy (.store j)) := ⟨nofun, rfl, rfl, rfl, sealed_verifies _, by decide +kernel, nofun⟩

theorem witness_ReadTemplateDelivers : idle0.lp.port = .ready ∧ idle0.tps.library[(4 : Fin 16)] = none ∧ idle0.tps.active = none ∧ idle0.tps.previous = none
    ∧ (∃ g, run0.tps.active = some g) ∧ (inPort idle0 (.busy (.readSlot 3))).lp.port = .busy (.readSlot 3) ∧ (∀ j, idle0.lp.port ≠ .busy (.readSlot j)) :=
  ⟨rfl, rfl, rfl, rfl, ⟨_, rfl⟩, rfl, nofun⟩

theorem witness_CommitChangesTemplates : run0.lp.port = .ready ∧ run0.rc.run = .running ∧ run0.tps.protection ≠ .locked ∧ run0.tps.previous = none
    ∧ run0.tps.work = some template0.sealed ∧ (∃ a, run0.tps.active = some a) ∧ template0.sealed.strandCount = run0.rc.active
    ∧ ({ template0 with strandCount := 2 } : Template).strandCount ≠ run0.rc.active ∧ idle0.rc.run = .idle :=
  ⟨rfl, rfl, nofun, rfl, rfl, ⟨_, rfl⟩, rfl, nofun, rfl⟩

theorem witness_UnlockLockAndFreeze : (inProtection idle0 .locked).tps.protection ≠ .unprotected ∧ (inProtection idle0 .locked).tps.frozen = false
    ∧ 0 < (inProtection idle0 .locked).tps.attempts ∧ (inProtection idle0 .locked).tps.level ≠ .strict
    ∧ (inProtection idle0 .locked).tps.lineCode = some (List.replicate 16 1#8) ∧ idle0.tps.protection = .unprotected := by decide +kernel

theorem witness_SetCodeChangesOver : idle0.lp.port = .ready ∧ idle0.tps.frozen = false ∧ idle0.tps.attempts ≠ 0 ∧ idle0.tps.protection ≠ .locked
    ∧ idle0.tps.deviceFault = false ∧ (inPort idle0 (.busy (.codeWrite .removeLine))).lp.port = .busy (.codeWrite .removeLine)
    ∧ (∀ x, idle0.lp.port ≠ .busy (.codeWrite x)) := ⟨rfl, rfl, nofun, nofun, rfl, rfl, nofun⟩

theorem witness_SawHoldReleaseAndClear : run0.lp.port = .ready ∧ run0.cps.saw = .ready ∧ (inSaw run0 .return_).cps.saw = .return_ ∧ go0.cps.saw = .go
    ∧ idle0.cps.saw = .held ∧ idle0.rc.run = .idle ∧ (inSaw run0 .held).cps.saw = .held ∧ run0.rc.run = .running
    ∧ (inSaw go0 .fault).cps.saw = .fault ∧ (inSaw go0 .fault).cps.holdNote = false := by decide +kernel

theorem witness_PlanKeepsPieceLengths : 0 < run0.activeTemplate.minLen ∧ run0.activeTemplate.minLen ≤ run0.activeTemplate.target ∧ run0.activeTemplate.target ≤ run0.activeTemplate.maxLen
    ∧ run0.computePlan = .plan 60200 false ∧ ({ run0 with tcu := { run0.tcu with L := 90000 } } : State).computePlan = .plan 89955 true := by decide +kernel

theorem witness_GoIsGivenAtTheThreshold : planned0.cps.saw = .planned ∧ planned0.cps.plan = some 960 ∧ planned0.travel.cps.isSome = true
    ∧ planned0.cps.planLate = false ∧ (∀ r, planned0.earliest = some r → r.z1 ≠ none) ∧ planned0.line.cfg.dSAW ≤ planned0.tcu.L
    ∧ planned0.tcu.L - planned0.line.cfg.dSAW + planned0.line.cfg.lead = 955 ∧ planned0.pins.sawReady = true ∧ planned0.rc.active ≤ planned0.pt.available
    ∧ planned0.rc.active ≤ planned0.ts.available :=
  have e : planned0.earliest = none := by decide +kernel
  ⟨rfl, rfl, rfl, rfl, fun r h => absurd (e.symm.trans h) nofun, by decide +kernel, by decide +kernel, rfl, by decide +kernel, by decide +kernel⟩

theorem witness_SawReadyEdgesAndTimeout : (inSaw run0 .return_).cps.saw = .return_ ∧ run0.cps.saw ≠ .return_ ∧ run0.cps.saw ≠ .planned ∧ go0.cps.saw = .go
    ∧ run0.cps.saw ≠ .go := by decide +kernel

theorem witness_CutDoneIsRecordedOrStray : go0.line.cfg.dSAW ≤ go0.tcu.L ∧ go0.cps.saw = .go ∧ ¬ (950 ≤ go0.head) ∧ go0.trackEnd 0 = 1000
    ∧ go0.cps.cutCounter ≠ 65534 ∧ go0.cps.holdNote = false ∧ go0.pins.sawReady = false ∧ (inSaw run0 .held).cps.saw = .held
    ∧ State.reset.tcu.L = 0 := by decide +kernel

theorem witness_EndEyeArrivesMarksOrStrays : transit0.pt.queue = 7 :: [] ∧ run0.pt.queue = [] ∧ run0.rc.run = .running ∧ (0 : Strand).val < run0.rc.active
    ∧ run0.track 0 ≠ [] ∧ run0.pt.headMark = false ∧ idle0.pt.queue = [] ∧ idle0.rc.run = .idle := by decide +kernel

theorem witness_PiecesAreReadRetiredAndRemoved : arrived0.lp.port = .ready ∧ arrived0.pieceByKey { slot := 2, seq := 0 } = some (piece0 .arrived)
    ∧ arrived0.pieceByKey { slot := 31, seq := 0 } = none ∧ transit0.pieceByKey { slot := 2, seq := 0 } = some (piece0 .transit) ∧ 7 ∈ transit0.pt.queue
    ∧ 65535 ∉ transit0.pt.queue ∧ arrived0.rc.run ≠ .draining ∧ arrived0.pieceAt 0 199 = some (piece0 .arrived) ∧ arrived0.pieceAt 0 200 = none := by
  decide +kernel

theorem witness_ResolvedAddresses : arrived0.resolve (.abs 4294967295) = .ok 4294967295 ∧ arrived0.resolve (.station 0 1) = .error .range
    ∧ arrived0.resolve (.billet 2 0) = .error .notFound := ⟨rfl, rfl, rfl⟩

theorem witness_MarkTestIsolatesOneLine : idle0.lp.port = .ready ∧ idle0.rc.run = .idle ∧ run0.lp.port = .ready ∧ run0.rc.run ≠ .idle := by decide +kernel

theorem witness_TravelAtTheWindows : run0.travel.swm = none ∧ moved0.travel.swm.isSome = true ∧ moved0.rc.run ≠ .idle ∧ (0 : Strand).val < moved0.rc.active
    ∧ (moved0.swm.lines[(0 : Strand)]).isolated = false ∧ hasStrand moved0.line.cfg.markerEnables 0 = true ∧ moved0.markerPoint = some 960
    ∧ (zone 99 200 .opened).holds 960 = true ∧ moved0.marks { zone 99 200 .opened with severity := .scrap } = true := by decide +kernel

theorem witness_DispositionAndVerdictRules : (zone 1 0 .opened).override = none ∧ (zone 1 0 .opened).disposition = .accept
    ∧ ({ zone 1 0 .opened with conds := condMask .gap } : Zone).disposition = .review ∧ ({ zone 1 0 .opened with conds := condMask .weld } : Zone).disposition = .scrap
    ∧ ({ zone 1 0 .opened with override := some .scrap } : Zone).override = some .scrap ∧ (zone 1 0 .opened).findings.length ≤ 4 := by decide +kernel

theorem witness_ClaimKeepsZonesContiguous : covers 100 none [zone 1 100 (.closed 200), zone 2 200 .opened] ∧ covers 100 (some 200) [zone 1 100 (.closed 200)] :=
  ⟨⟨rfl, by decide +kernel, rfl, rfl, rfl⟩, rfl, by decide +kernel, rfl⟩

theorem witness_ZonesAreLookedUp : run0.lp.port = .ready ∧ (0 : Strand).val < run0.rc.active ∧ run0.rc.active ≤ (1 : Strand).val
    ∧ run0.heldZone 0 200 = some (zone 99 200 .opened) ∧ run0.heldZone 0 1000 = none ∧ run0.walkZone 0 1000 = some (zone 99 200 .opened)
    ∧ run0.walkZone 0 199 = none := by decide +kernel

theorem witness_HoldsAndReleases : run0.checkSpan { strand := 0, first := .abs 300, second := .abs 400 } = .ok (0, 300, 400)
    ∧ run0.checkSpan { strand := 0, first := .abs 400, second := .abs 400 } = .error .range ∧ (openStart? (run0.track 0)).isSome = true
    ∧ run0.boundaryCoord 0 = 1000 ∧ (held0.rc.future[(0 : Strand)]).held = some 1200 ∧ (run0.rc.future[(0 : Strand)]).held = none :=
  ⟨rfl, rfl, rfl, rfl, rfl, rfl⟩

theorem witness_HoldSpansAppliesSpanBySpan : idle0.lp.port = .ready ∧ idle0.rc.run = .idle ∧ run0.rc.run ≠ .idle
    ∧ (inPort run0 (.dataIn put0)).lp.port = .dataIn put0 ∧ (∃ sp rest, put0.waiting = sp :: rest) ∧ put1.waiting = [] ∧ put0.next + 1 ≠ put0.count
    ∧ ({ put0 with count := 1 } : SpanPut).next + 1 = 1 ∧ (∀ q, run0.lp.port ≠ .dataIn q) := ⟨rfl, rfl, nofun, rfl, ⟨_, _, rfl⟩, rfl, by decide +kernel, rfl, nofun⟩

theorem witness_OverrideChangesRecordsAlone : run0.lp.port = .ready ∧ run0.zoneByKey { slot := 99, seq := 0 } = some (zone 99 200 .opened)
    ∧ run0.zoneByKey { slot := 1023, seq := 0 } = none := by decide +kernel

theorem witness_ClaimsAndBoundariesChangeRecords : claim0.x1 < claim0.x2 ∧ ({ claim0 with x2 := 0 } : Claim).x2 ≤ claim0.x1 ∧ claim0.strand.val < run0.rc.active
    ∧ idle0.rc.active ≤ claim0.strand.val ∧ (∀ h ∈ run0.ts.handed, h.1 ≠ .sweep)
    ∧ ([(Sender.sweep, claim0)].find? fun h => h.1 == Sender.sweep) = some (.sweep, claim0) ∧ (run0.track 0).getLast? = some (zone 99 200 .opened)
    ∧ (zone 99 200 .opened).isOpen = true ∧ 0 < run0.ts.available ∧ ({ run0.ts with free := [] } : Ts).available = 0 ∧ openStart? (run0.track 1) = none := by
  decide +kernel

theorem witness_GaugeFramesAreAnswered : measureFrame.length = 9 ∧ measureFrame.drop 7 = enc2 (crc16 (measureFrame.take 7)).toNat
    ∧ run0.reportOf .g0 measureFrame = some (.measure 0 0 200) ∧ run0.tag .g0 (.measure 0 0 200) = measure0
    ∧ (run0.referenceAt (some 1)).measures .g0 0 = true ∧ (run0.referenceAt (some 1)).measures .g2 0 = false ∧ run0.reportOf .g1 measureFrame = none
    ∧ 16 ≤ (queued run0 (List.replicate 16 measure0)).iu.g0.queue.length := by decide +kernel

theorem witness_ReportsAreEvaluatedAndCoverageSwept : (run0.iu.link .g0).queue = [] ∧ ((queued run0 [measure0]).iu.link .g0).queue = measure0 :: []
    ∧ run0.tps.ofGeneration (some 1) = some template0 ∧ run0.tps.ofGeneration (some 9) = none ∧ (run0.iu.link .g0).blind = none
    ∧ run0.travel.iu = none ∧ moved0.travel.iu.isSome = true ∧ moved0.sweepPoint .g0 = some 990 := by decide +kernel

/-! ### Witnesses of the clauses over sound records -/

/-- RUNNING with every slot of both stores accounted for: strand 0 holds the open zone of slot 1,023 from 200, under a VALID window,
and the piece [100, 200) of slot 31 the zone of slot 1,022. -/
def sound0 : State :=
  { run0 with ts := { Ts.reset with free := List.range 1022, tracks := (Vector.replicate 4 []).set 0 [zone 1023 200 .opened],
                                    first := (Vector.replicate 4 0).set 0 200 },
              pt := { Pt.reset with free := List.range 31,
                                    pieces := [{ piece0 .arrived with key := { slot := 31, seq := 0 },
                                                                      zones := [zone 1022 100 (.cut 200 { slot := 31, seq := 0 })] }] },
              swm := { run0.swm with windows := (Vector.replicate 4 .empty).set 0 (.valid (zone 1023 200 .opened) none) } }

theorem sound0_slots : sound0.slotsSound := by
  refine ⟨?_, ?_, ?_, ?_⟩
  · have e : List.range 1024 = List.range 1022 ++ [1022, 1023] := by
      rw [List.range_succ, List.range_succ, List.append_assoc]; rfl
    have f : sound0.ts.free = List.range 1022 := by simp only [sound0]
    have h : sound0.heldZones.map (·.key.slot) = [1023, 1022] := rfl
    rw [e, f, h]
    exact (List.Perm.swap 1022 1023 []).append_left _
  · have e : sound0.heldZones = [zone 1023 200 .opened, zone 1022 100 (.cut 200 { slot := 31, seq := 0 })] := rfl
    rw [e]
    intro z hz
    rcases List.mem_cons.mp hz with rfl | hz
    · exact Vector.getElem?_eq_some_iff.mpr ⟨by decide, Vector.getElem_replicate ..⟩
    · rw [List.mem_singleton.mp hz]
      exact Vector.getElem?_eq_some_iff.mpr ⟨by decide, Vector.getElem_replicate ..⟩
  · show (List.range 31 ++ [31]).Perm (List.range 32)
    exact List.Perm.of_eq (List.range_succ).symm
  · decide +kernel

theorem sound0_tracks : sound0.tracksSound := by
  refine ⟨by decide +kernel, fun st h => ?_, by decide +kernel⟩
  have h0 : st = 0 := Fin.ext (Nat.lt_one_iff.mp h)
  subst h0
  exact ⟨rfl, fun _ => ⟨rfl, rfl, rfl⟩, nofun, nofun⟩

theorem sound0_tracks_dead : (inRun sound0 .dead).tracksSound := by
  refine ⟨by decide +kernel, fun st h => ?_, by decide +kernel⟩
  have h0 : st = 0 := Fin.ext (Nat.lt_one_iff.mp h)
  subst h0
  exact ⟨rfl, fun _ => ⟨rfl, rfl, rfl⟩, nofun, nofun⟩

theorem sound0_pieces : sound0.piecesSound := by
  refine ⟨fun p hp => ?_, List.pairwise_singleton ..⟩
  rw [List.mem_singleton.mp hp]
  exact ⟨by decide, by decide, ⟨rfl, by decide, rfl⟩, by decide +kernel, by decide +kernel, by decide +kernel⟩

theorem witness_recordsSound : sound0.recordsSound ∧ sound0.windowsCurrent ∧ ∃ t, step sound0 = .next t := by
  refine ⟨⟨sound0_slots, sound0_tracks, sound0_pieces, ?_⟩, ?_, _, rfl⟩
  · refine ⟨nofun, fun (h : sound0.rc.run = .idle ∨ sound0.rc.run = .armed) => by rcases h with h | h <;> exact absurd h nofun, fun _ => ⟨rfl, rfl⟩, Nat.zero_le _, Nat.zero_le _, .inl ⟨rfl, rfl, nofun⟩⟩
  · intro st z n h
    have key : ∀ st : Strand, sound0.swm.windows[st] = if st = 0 then .valid (zone 1023 200 .opened) none else .empty := by decide +kernel
    rw [key] at h
    split at h
    · rename_i e; subst e; cases h; exact ⟨by decide +kernel, rfl⟩
    · cases h

/-- A claim on [300, 400) of strand 0. -/
def claim1 : Claim := { claim0 with x1 := 300, x2 := 400, finding := none }

theorem witness_claim_premises : claim1.x1 < claim1.x2 ∧ claim1.strand.val < sound0.rc.active ∧ claim1.reaches sound0 399 ∧ ¬ claim1.reaches sound0 400
    ∧ sound0.walkZone 0 300 = some (zone 1023 200 .opened) ∧ (sound0.heldZone 0 300).isSome = true ∧ sound0.heldZone 0 50 = none
    ∧ ({ claim1 with x1 := 50 } : Claim).reaches sound0 50 ∧ ({ claim1 with action := .removeHeld } : Claim).action = .removeHeld
    ∧ ¬ ({ claim1 with x2 := 1200 } : Claim).reaches sound0 1000 := by
  unfold Claim.reaches; decide +kernel
theorem witness_claim_slots : 16 + 2 * ((sound0.piecesOf 0).length + 1) ≤ sound0.ts.available := by
  have f : sound0.ts.free = List.range 1022 := by simp only [sound0]
  have p : (sound0.piecesOf 0).length = 1 := rfl
  show _ ≤ sound0.ts.free.length - sound0.ts.setAside
  rw [f, p, List.length_range]; decide
theorem witness_claim_seen_once : (sound0.heldZone 0 100).isSome = true ∧ (sound0.heldZone 0 199).isSome = true ∧ (sound0.heldZone 0 200).isSome = true := by
  decide +kernel

theorem witness_override_premises : (sound0.zoneByKey { slot := 1023, seq := 0 }) = some (zone 1023 200 .opened)
    ∧ (zone 1023 200 .opened).stop? ≠ some 200 ∧ ((sound0.zoneByKey { slot := 1022, seq := 0 }).map (·.start)) = some 100
    ∧ (zone 1 5 (.closed 5)).stop? = some (zone 1 5 (.closed 5)).start := by decide +kernel
theorem witness_hold_span_premises : sound0.rc.run ≠ .idle ∧ sound0.checkSpan { strand := 0, first := .abs 300, second := .abs 400 } = .ok (0, 300, 400)
    ∧ sound0.checkSpan { strand := 0, first := .abs 150, second := .abs 1100 } = .ok (0, 150, 1100) ∧ sound0.boundaryCoord 0 = 1000
    ∧ sound0.heldZone 0 150 ≠ none ∧ (openStart? (sound0.track 0)).isSome = true := ⟨nofun, rfl, rfl, rfl, nofun, rfl⟩

theorem witness_holdsRequest : idle0.lp.holdsRequest
    ∧ ({ idle0.lp with port := .busy (.load 3), request := some (.loadTemplate 3) } : Lp).holdsRequest
    ∧ ({ idle0.lp with port := .dataIn put0, request := some (.holdSpans 2 2) } : Lp).holdsRequest
    ∧ ¬ ({ idle0.lp with port := .dataIn put0, request := some .lock } : Lp).holdsRequest := by
  unfold Lp.holdsRequest; decide +kernel
theorem witness_freed_slots : ({ slot := 1023, seq := 0 } : Key).slot < 1024 ∧ ({ slot := 31, seq := 0 } : Key).slot < 32 := by decide

/-! ### Witnesses of the other clauses -/

theorem witness_request_blocks : record0.wf = true ∧ (Address.station 5 (-8388608)).wf = true ∧ (Address.unknown 3).wf = true ∧ (WalkStart.unknown 2).wf = true
    ∧ (WalkStart.continue_ 4294967295).wf = true ∧ (∀ n ∈ catalogue, n.bytes ≠ ([] : List Byte).take 16) := by decide +kernel
theorem witness_spans_waiting : put0.waiting ≠ [] ∧ (∃ u, exec (.holdSpansSpanApply .claimFirst) (inPort run0 (.dataIn put0)) = .next u) :=
  ⟨nofun, _, rfl⟩
theorem witness_arrived_due : arrived0.pt.arrivedBlock (some (6, 3)) = [piece0 .arrived] ∧ arrived0.pt.arrivedBlock (some (7, 0)) = [] := by decide +kernel
theorem witness_line_numbers : ({ record0 with dG0 := 0 } : LineRecord).firstBad = some 1 ∧ ({ record0 with dG2 := 20 } : LineRecord).firstBad = some 3
    ∧ ({ record0 with bEnable := 1 } : LineRecord).firstBad = some 13 ∧ ({ record0 with gapLimit := 99, minGap := 50001 } : LineRecord).firstBad = some 16
    ∧ ({ record0 with idlePolicy := 2 } : LineRecord).firstBad = some 21 := by decide +kernel
theorem witness_start_run_keeps_saw : idle0.ts.handed = [] ∧ run0.ts.handed = [] ∧ idle0.rc.active = 0 := by decide +kernel

/-- DEAD with the die-run note set: no billet is made. -/
def noted0 : State := { dead0 with rc := { dead0.rc with deadNote := true } }

theorem witness_dead_cycle_boundaries : dead0.rc.active + 4 ≤ dead0.ts.available ∧ (dead0.track 0).getLast? = some (zone 99 200 .opened)
    ∧ (zone 99 200 .opened).isOpen = true ∧ (0 : Strand).val < dead0.rc.active ∧ (dead0.rc.future[(0 : Strand)]).stop = none
    ∧ noted0.rc.deadNote = true ∧ ({ noted0 with tps := { noted0.tps with active := none } } : State).activeTemplate.stopAfter = 0 := by decide +kernel

/-- Strand 0 with a closed zone below its open zone. -/
def two0 (x : Coord) : State :=
  { run0 with ts := { run0.ts with tracks := (Vector.replicate 4 []).set 0 ([zone 98 200 (.closed x)] ++ [zone 99 x .opened]) } }

theorem witness_tail_close : run0.track 0 = [] ++ [zone 99 200 .opened] ∧ (two0 400).track 0 = [zone 98 200 (.closed 400)] ++ [zone 99 400 .opened]
    ∧ (two0 1000).tailCoord = 1000 ∧ (two0 400).tailCoord = 1000 ∧ 0 < run0.activeTemplate.endScrap := by decide +kernel

/-- Strand 0 with a NOSE entry that L = 1,000 has passed, and a STOP entry that it has not. -/
def expired0 : State :=
  { moved0 with rc := { moved0.rc with future := (Vector.replicate 4 FutureList.empty).set 0 { FutureList.empty with nose := some 990, stop := some 1001 } } }

theorem witness_expiry : (expired0.rc.future[(0 : Strand)]).ends.filter (fun e => decide (e ≤ expired0.tcu.L)) = [990]
    ∧ (moved0.rc.future[(0 : Strand)]).ends.filter (fun e => decide (e ≤ moved0.tcu.L)) = [] ∧ expired0.rc.active + 16 ≤ expired0.ts.available
    ∧ (expired0.track 0).getLast? = some (zone 99 200 .opened) := by decide +kernel
theorem witness_tail_set : draining0.activeStrands.filter (fun st => decide (draining0.ts.first[st] ≠ 950)) = [0]
    ∧ draining0.activeStrands.filter (fun st => decide (draining0.ts.first[st] ≠ 200)) = [] := by decide +kernel
theorem witness_commit_boundaries : run0.rc.active + 4 ≤ run0.ts.available ∧ (run0.track 0).getLast? = some (zone 99 200 .opened)
    ∧ (zone 99 200 .opened).isOpen = true ∧ run0.activeGeneration ≠ 255 := by decide +kernel

/-- Whether a command leaves a next state that a check accepts, for the cuts below: the pieces and the saw. -/
def cuts (s : State) (f : Piece → Bool) (saw : SawState) : Bool :=
  leaves .cutDone s fun t => t.cps.saw == saw && (match t.pt.pieces with | [p] => f p | _ => false)

/-- PLANNED late, SAW-READY low. -/
def late0 : State := { inSaw run0 .planned with cps := { run0.cps with saw := .planned, plan := some 960, planLate := true } }

/-- With a zone start at 400 and no slot beyond the reserve. -/
def full0 : State := { two0 400 with ts := { (two0 400).ts with free := List.range 16 } }

theorem test_unplanned_cut : cuts run0 (fun p => p.unplanned && !p.shifted && !p.late && p.tail == 950 && p.state == .transit) .return_ = true := by decide +kernel
theorem test_unplanned_cut_late : cuts late0 (fun p => p.unplanned && p.late && p.tail == 950) .return_ = true := by decide +kernel
theorem test_unplanned_cut_shifted : cuts full0 (fun p => p.unplanned && p.shifted && p.tail == 400) .return_ = true := by decide +kernel
theorem test_unplanned_cut_bare : leaves .cutDone { run0 with pt := { run0.pt with free := [] } } (fun t =>
    t.cps.saw == .fault && t.pt.pieces == [] && hasCause t.lp.alerts.pendingSet .sawFault) = true := by decide +kernel
theorem test_cut_in_fault_reserved : cuts (inSaw go0 .fault) (fun p => p.late && !p.unplanned) .fault = true := by decide +kernel
theorem test_cut_in_fault : cuts (inSaw run0 .fault) (fun p => p.late && p.unplanned) .fault = true := by decide +kernel
theorem test_cut_head_mark : cuts { run0 with pt := { run0.pt with headMark := true } } (fun p => p.state == .arrived && !p.late) .return_ = true := by
  decide +kernel
theorem test_cut_queue_full : cuts { run0 with pt := { run0.pt with queue := [1, 2, 3, 4, 5, 6, 7, 8] }, cps := { run0.cps with cutCounter := 8 } }
    (fun p => p.state == .arrived && p.late) .return_ = true := by decide +kernel
theorem witness_cut_keys : (transit0.pt.pieces.map (·.key)).Nodup := by decide +kernel

theorem test_unlock_frozen : leaves (.unlock 7 []) { inProtection idle0 .locked with tps := { (inProtection idle0 .locked).tps with frozen := true } }
    (ended .locked []) = true := by decide +kernel
theorem test_unlock_code : leaves (.unlock 7 []) (inProtection idle0 .locked) (ended .range []) = true := by decide +kernel
theorem test_mark_test_isolate : leaves (.markTest 2 2 0) idle0 (ended .range []) = true := by decide +kernel
theorem test_request_held : leaves (.loadTemplate 3) idle0 (fun t => t.lp.request == some (.loadTemplate 3)) = true
    ∧ leaves (.loadTemplate 4) idle0 (fun t => t.lp.request == none) = true := by decide +kernel
theorem test_override_same : leaves (.overrideZone { slot := 99, seq := 0 } 3) run0 (fun t => t.cps == run0.cps && t.ts.tracks == run0.ts.tracks && ended .none
    (encKey { slot := 99, seq := 0 } ++ [0#8]) t) = true := by decide +kernel
theorem test_split_replans : leaves (.conditionClaim (.arriving { claim1 with x2 := 350 })) { run0 with cps := { Cps.reset with saw := .ready } }
    (fun t => t.cps.saw == .planned) = true := by decide +kernel

/-- The lines of a state. -/
def lined (s : State) (w : Window) (l : MarkLine) : State :=
  { s with swm := { windows := (Vector.replicate 4 .empty).set 0 w, lines := (Vector.replicate 4 MarkLine.off).set 0 l } }

/-- A line ON since a point. -/
def onSince (x : Coord) : MarkLine := { on := true, onPoint := some x, isolated := false }

/-- A zone of template0's marked set. -/
def marked0 : Zone := { zone 99 200 .opened with severity := .scrap }

theorem test_line_isolated : run0.judged 0 { onSince 1 with isolated := true } = { onSince 1 with isolated := true } := by decide +kernel
theorem test_line_inactive : run0.judged 1 (onSince 1) = MarkLine.off := by decide +kernel
theorem test_line_idle : (inRun run0 .dead).judged 0 (onSince 1) = MarkLine.off := by decide +kernel
theorem test_line_lapsed : (lined run0 .lapsed MarkLine.off).judged 0 (onSince 1) = onSince 1 := by decide +kernel
theorem test_line_marked : run0.marks marked0 = true ∧ (lined run0 (.valid marked0 none) MarkLine.off).judged 0 MarkLine.off = onSince 1000 := by decide +kernel
theorem test_line_minimum : (lined run0 .empty MarkLine.off).judged 0 (onSince 999) = onSince 999
    ∧ (lined run0 .empty MarkLine.off).judged 0 (onSince 998) = MarkLine.off := by decide +kernel
theorem test_line_bridged : (lined run0 (.valid (zone 99 200 .opened) (some { start := 961, key := badKey, marked := true })) MarkLine.off).judged 0 (onSince 1)
    = onSince 1 := by decide +kernel
theorem test_line_past_tail : (lined (inRun draining0 .draining) .lapsed MarkLine.off).judged 0 (onSince 1) = MarkLine.off
    ∧ draining0.markerPoint = some 960 := by decide +kernel
theorem test_window_hits : ((lined run0 (.valid (zone 99 200 .opened) none) (onSince 1)).hitAll { gone := [(zone 99 200 .opened).key], written := [] }).swm.windows[(0 : Strand)]
      = .lapsed
    ∧ ((lined run0 (.valid marked0 none) (onSince 1)).hitAll { gone := [], written := [(zone 99 200 .opened).key] }).swm.windows[(0 : Strand)]
      = .valid (zone 99 200 .opened) none := by decide +kernel

theorem witness_addresses : run0.resolve (.station 1 (-990)) = .ok 0 ∧ run0.resolve (.station 1 (-991)) = .error .range ∧ run0.resolve (.station 6 0) = .error .range
    ∧ run0.resolve (.billet 1 4294967295) = .ok 4294967295 ∧ billets0.resolve (.billet 2 4294967295) = .error .range ∧ run0.resolve (.unknown 3) = .error .range
    ∧ idle0.checkSpan { strand := 0, first := .abs 0, second := .abs 1 } = .error .aborted ∧ run0.checkSpan { strand := 4, first := .abs 0, second := .abs 1 } = .error .range
    ∧ run0.checkSpan { strand := 1, first := .abs 0, second := .abs 1 } = .error .range
    ∧ run0.checkSpan { strand := 0, first := .abs 0, second := .billet 9 0 } = .error .notFound := ⟨rfl, rfl, rfl, rfl, rfl, rfl, rfl, rfl, rfl, rfl⟩

/-- A sample at x, out of tolerance or within it. -/
def sample (x : Coord) (out : Bool) : Sample := { c := x, dev := 7, generation := 1, out := out }

theorem test_tracker_opens : (Tracker.fresh.take 1 2 (sample 50 true)).dim = some (50, 50, { dev := 7, loc := 50 })
    ∧ (Tracker.fresh.take 2 2 (sample 50 true)).dim = none := by decide +kernel
theorem test_tracker_closes : let t := (Tracker.fresh.take 1 2 (sample 50 true)).tracker
    t.state = .out ∧ ((t.take 1 2 (sample 60 false)).tracker.take 1 2 (sample 70 false)).tracker.state = .within
    ∧ (t.take 1 2 (sample 60 true)).dim = some (50, 60, { dev := 7, loc := 60 }) := by decide +kernel

/-- A flaw of class 0, extent 4, on strand 0. -/
def flaw0 : Report := { kind := .flaw 0 0 4, coord := some 980, generation := some 1 }

theorem test_measure_claim : leaves (.reportEvaluation .g0 .later) (queued run0 [measure0]) (fun t =>
    t.ts.handed == [(.link .g0, { strand := 0, x1 := 990, x2 := 991, action := .add .dim, severity := .scrap,
                                  finding := some { station := .g0, item := 0, dev := 100, loc := 990 }, mandatory := false })]
      && (t.iu.link .g0).covered[(0 : Strand)] == 990) = true := by decide +kernel
theorem test_flaw_claim : leaves (.reportEvaluation .g1 .later) { run0 with iu := { run0.iu with g1 := { run0.iu.g1 with queue := [flaw0] } } } (fun t =>
    t.ts.handed == [(.link .g1, { strand := 0, x1 := 976, x2 := 981, action := .add .surf, severity := .review,
                                  finding := some { station := .g1, item := 0, dev := 400, loc := 980 }, mandatory := false })]) = true := by decide +kernel
theorem test_seeing_claim : leaves (.reportEvaluation .g0 .later)
    { queued run0 [{ measure0 with kind := .seeing }] with
      iu := { (queued run0 [{ measure0 with kind := .seeing }]).iu with
              g0 := { (queued run0 [{ measure0 with kind := .seeing }]).iu.g0 with blind := some ((Vector.replicate 4 none).set 0 (some 700)) } } } (fun t =>
    t.ts.handed.map (fun h => (h.2.x1, h.2.x2)) == [(700, 990)] && (t.iu.link .g0).blind == none) = true := by decide +kernel
theorem test_blind_marks : leaves (.reportEvaluation .g0 .later) (queued run0 [{ measure0 with kind := .blind }]) (fun t =>
    (t.iu.link .g0).blind == some ((Vector.replicate 4 none).set 0 (some 0)) && hasCause t.lp.alerts.pendingSet .blind) = true := by decide +kernel
theorem witness_tracker_feature : (template0.features[0]?).isSome = true ∧ template0.features[1]? = none ∧ run0.sweeps .g2 = false := by decide +kernel

/-! ### Tail release, the planner, retires and spans -/

/-- DRAINING with the saw in a state. -/
def drained (x : SawState) : State := { inSaw draining0 x with cps := { Cps.reset with saw := x, plan := some 960, timeout := some 500 },
                                                               ts := { draining0.ts with setAside := 1 }, pt := { draining0.pt with setAside := 1 } }

/-- DRAINING with the tail released, the piece of arrived0 alone held. -/
def lastPiece0 : State := { arrived0 with rc := { arrived0.rc with run := .draining, tail := some 950, tailReleased := true } }

theorem witness_release_due : draining0.releaseDue 950 ∧ draining0.gives 950 = [0] ∧ ¬ lastPiece0.releaseDue 950
    ∧ ¬ ({ draining0 with pt := { draining0.pt with free := [] } } : State).releaseDue 950 := by
  unfold State.releaseDue; decide +kernel
theorem test_release_in_go : leaves .futureConditionExpiry (drained .go) (fun t => t.cps.saw == .fault && t.cps.plan == some 960
    && t.cps.timeout == none && hasCause t.lp.alerts.pendingSet .sawFault && t.ts.setAside == 0 && t.pt.setAside == 0
    && t.pt.pieces.map (fun p => (p.head, p.tail, p.tailFlag)) == [(200, 950, true)]) = true := by decide +kernel
theorem test_release_planned : leaves .futureConditionExpiry (drained .planned) (fun t => t.cps.saw == .ready && t.cps.plan == none
    && t.cps.noPlan == .tail && t.ts.setAside == 1) = true := by decide +kernel
theorem test_release_in_fault : leaves .futureConditionExpiry (drained .fault) (fun t => t.cps.saw == .fault && t.ts.setAside == 0
    && !hasCause t.lp.alerts.pendingSet .sawFault) = true := by decide +kernel
theorem test_release_not_due : leaves .futureConditionExpiry { draining0 with tcu := { draining0.tcu with L := 999 } } (fun t =>
    t.rc == draining0.rc && t.ts.tracks == draining0.ts.tracks && t.pt.pieces == []) = true := by decide +kernel
theorem test_release_without_piece : leaves .futureConditionExpiry
    { draining0 with ts := { draining0.ts with first := (Vector.replicate 4 0).set 0 950 } } (fun t =>
    t.rc.run == .idle && t.pt.pieces == [] && t.cps.saw == .held) = true := by decide +kernel
theorem test_retire_running : leaves (.retirePiece { slot := 2, seq := 0 } .sawFirst) { arrived0 with cps := planned0.cps, pins := planned0.pins } (fun t =>
    t.cps.saw == .planned && t.cps.wait == .none && t.pt.pieces == []) = true := by decide +kernel
theorem test_retire_judges_go : leaves (.retirePiece { slot := 2, seq := 0 } .releaseFirst)
    { arrived0 with pt := { arrived0.pt with free := [] }, cps := { planned0.cps with plan := some 955 }, pins := planned0.pins } (fun t =>
    t.cps.saw == .go && t.pt.setAside == 1) = true := by decide +kernel
theorem test_retire_last_piece : leaves (.retirePiece { slot := 2, seq := 0 } .sawFirst) lastPiece0 (fun t =>
    t.rc.run == .idle && t.cps.saw == .held && ended .none [0#8, 2#8, 0#8, 0#8, 0#8, 7#8, 0#8, 0#8, 0#8] t) = true := by decide +kernel
theorem test_retire_makes_deferred_release : leaves (.retirePiece { slot := 2, seq := 0 } .releaseFirst)
    { draining0 with pt := { arrived0.pt with free := [] } } (fun t =>
    t.rc.tailReleased && t.rc.run == .draining && t.pt.pieces.map (fun p => (p.head, p.tail, p.tailFlag)) == [(200, 950, true)]) = true := by
  decide +kernel
theorem witness_retire_sound : sound0.pieceByKey { slot := 31, seq := 0 } = sound0.pt.pieces.head? ∧ (sound0.pt.pieces.map (·.state)) = [.arrived]
    ∧ (sound0.pt.pieces.map fun p => p.zones.map (·.key.slot)) = [[1022]] := ⟨rfl, rfl, rfl⟩

/-- Strand 0 with one zone of one condition, its range known or not. -/
def weldAt (p : ZonePlace) (e : Option Coord) : State :=
  { run0 with ts := { run0.ts with tracks := (Vector.replicate 4 []).set 0 [{ zone 99 300 p with conds := condMask .weld }] },
              rc := { run0.rc with future := (Vector.replicate 4 FutureList.empty).set 0 { FutureList.empty with weld := e } } }

theorem witness_earliest : run0.earliest.isNone = true ∧ (weldAt (.closed 800) none).earliest.map (fun r => (r.z0, r.z1)) = some (300, some 800)
    ∧ (weldAt .opened (some 1500)).earliest.map (fun r => (r.z0, r.z1)) = some (300, some 1500)
    ∧ (weldAt .opened none).earliest.map (fun r => (r.z0, r.z1)) = some (300, none) := by decide +kernel
theorem witness_plan_reasons : draining0.computePlan = .noPlan .tail
    ∧ ({ run0 with cps := { run0.cps with cutCounter := 65534 } } : State).computePlan = .noPlan .count
    ∧ (weldAt .opened none).computePlan = .plan (200 + run0.activeTemplate.maxLen) false
    ∧ (weldAt (.closed 30000) none).computePlan = .plan 30000 false
    ∧ (weldAt (.closed 800) none).computePlan = .plan (200 + run0.activeTemplate.minLen) false := by decide +kernel

/-- The travel event of the saw waiting. -/
def atSaw (s : State) : State := { s with travel := { s.travel with cps := some 990 } }

theorem test_travel_plans_anew_late : leaves .goThreshold (atSaw late0) (fun t => t.cps.saw == .planned && t.cps.plan == some 60200 && !t.cps.planLate) = true := by
  decide +kernel
theorem test_travel_plans_anew_unknown : leaves .goThreshold (atSaw (weldAt .opened none)) (fun t =>
    t.cps.saw == .planned && t.cps.plan == some (200 + run0.activeTemplate.maxLen)) = true := by decide +kernel
theorem test_travel_finds_no_plan : leaves .goThreshold (atSaw { late0 with cps := { late0.cps with cutCounter := 65534 } }) (fun t =>
    t.cps.saw == .ready && t.cps.plan == none && t.cps.noPlan == .count) = true := by decide +kernel
theorem test_travel_in_ready : leaves .goThreshold (atSaw run0) (fun t => t.cps == run0.cps) = true := by decide +kernel

theorem witness_span_sides : (openStart? (sound0.track 0)).isSome = true ∧ sound0.boundaryCoord 0 = 1000 ∧ (sound0.rc.future[(0 : Strand)]).held = none
    ∧ sound0.lp.port = .ready ∧ (held0.rc.future[(0 : Strand)]).held = some 1200 ∧ held0.boundaryCoord 0 = 1000
    ∧ held0.checkSpan { strand := 0, first := .abs 1100, second := .abs 1300 } = .ok (0, 1100, 1300)
    ∧ held0.checkSpan { strand := 0, first := .abs 1250, second := .abs 1300 } = .ok (0, 1250, 1300)
    ∧ held0.checkSpan { strand := 0, first := .abs 1000, second := .abs 1200 } = .ok (0, 1000, 1200)
    ∧ held0.checkSpan { strand := 0, first := .abs 300, second := .abs 1100 } = .ok (0, 300, 1100) := ⟨rfl, rfl, rfl, rfl, rfl, rfl, rfl, rfl, rfl, rfl⟩
theorem witness_release_slots : 21 + 2 * ((sound0.piecesOf 0).length + 1) ≤ sound0.ts.available := by
  have f : sound0.ts.free = List.range 1022 := by simp only [sound0]
  have p : (sound0.piecesOf 0).length = 1 := rfl
  show _ ≤ sound0.ts.free.length - sound0.ts.setAside
  rw [f, p, List.length_range]; decide
theorem test_hold_extends_entry : leaves (.holdSpan 0 (.abs 300) (.abs 1300) .claimFirst) held0 (fun t =>
    (t.rc.future[(0 : Strand)]).held == some 1300 && (match t.lp.result with | some r => r.fields.getLast? == some 1#8 | none => false)) = true := by
  decide +kernel
theorem test_release_removes_entry : leaves (.releaseHold 0 (.abs 300) (.abs 1200) .entryFirst)
    { held0 with ts := { held0.ts with tracks := (Vector.replicate 4 []).set 0 [{ zone 99 200 .opened with conds := condMask .held }] } } (fun t =>
    (t.rc.future[(0 : Strand)]).held == none && (t.track 0).map (fun z => (z.start, z.conds)) == [(200, condMask .held), (300, 0)]) = true := by decide +kernel
theorem test_release_shortens_entry : leaves (.releaseHold 0 (.abs 1100) (.abs 1200) .claimFirst) held0 (fun t =>
    (t.rc.future[(0 : Strand)]).held == some 1100) = true := by decide +kernel
theorem test_release_above_entry : leaves (.releaseHold 0 (.abs 1250) (.abs 1300) .claimFirst) held0 (fun t =>
    (t.rc.future[(0 : Strand)]).held == some 1200) = true := by decide +kernel
theorem test_release_refused : leaves (.releaseHold 0 (.abs 300) (.abs 1100) .claimFirst) held0 (ended .range []) = true := by decide +kernel

theorem test_end_run_later : leaves (.endRun .later) run0 (fun t => t.track 0 == [zone 99 200 (.closed 1000)]
    && t.ts.handed.map (fun h => (h.2.x1, h.2.x2)) == [(960, 1000)]) = true := by decide +kernel

/-- A commit at 100 whose PREVIOUS no report waits for. -/
def previous0 : State :=
  { moved0 with tps := { moved0.tps with previous := some { template := template0, generation := 0 }, commitCoord := some 100 } }

theorem witness_previous_due : previous0.tps.late = 0 ∧ previous0.line.cfg.dSAW + 100 ≤ previous0.tcu.L
    ∧ previous0.line.cfg.dG2 + previous0.line.cfg.latG2 + 100 ≤ previous0.tcu.L := by decide +kernel
theorem test_sweep_releases_previous : leaves (.coverageSweep .later) previous0 (fun t => t.tps.previous.isNone && t.tps.commitCoord == none) = true := by
  decide +kernel
theorem test_report_releases_previous : leaves (.reportEvaluation .g0 .later) (queued previous0 [{ measure0 with generation := some 0 }]) (fun t =>
    t.tps.previous.isNone) = true := by decide +kernel
theorem test_report_keeps_previous : leaves (.reportEvaluation .g0 .later) (queued previous0 [measure0, { measure0 with generation := some 0 }]) (fun t =>
    t.tps.previous.isSome && t.tps.commitCoord == some 100) = true := by decide +kernel

/-- The sound state with a HELD entry to 1,200. -/
def soundHeld0 : State :=
  { sound0 with rc := { sound0.rc with future := (Vector.replicate 4 FutureList.empty).set 0 { FutureList.empty with held := some 1200 } } }

/-- GO with its reservation, the records sound. -/
def soundGo0 : State :=
  { sound0 with cps := go0.cps, ts := { sound0.ts with setAside := 1 }, pt := { sound0.pt with setAside := 1 } }

theorem witness_sound_entry : soundHeld0.recordsSound ∧ (soundHeld0.rc.future[(0 : Strand)]).held = some 1200 ∧ soundHeld0.boundaryCoord 0 = 1000
    ∧ soundHeld0.checkSpan { strand := 0, first := .abs 300, second := .abs 1200 } = .ok (0, 300, 1200) :=
  ⟨witness_recordsSound.1, rfl, rfl, rfl⟩
theorem witness_sound_go : soundGo0.recordsSound ∧ soundGo0.cps.saw = .go ∧ soundGo0.trackEnd 0 = 1000 ∧ soundGo0.head < 950 := by
  have free : soundGo0.ts.free.length = 1022 := by
    have f : soundGo0.ts.free = List.range 1022 := by simp only [soundGo0, sound0]
    rw [f, List.length_range]
  have room : soundGo0.ts.setAside ≤ soundGo0.ts.free.length := free ▸ (by decide : 1 ≤ 1022)
  have slots : soundGo0.slotsSound := by
    have a := sound0_slots
    simp only [State.slotsSound, State.heldZones, soundGo0] at a ⊢
    exact a
  have pieces : soundGo0.piecesSound := by
    have a := sound0_pieces
    simp only [State.piecesSound, soundGo0] at a ⊢
    exact a
  have tracks : soundGo0.tracksSound := by
    have a := sound0_tracks
    simp only [State.tracksSound, State.track, State.head, soundGo0] at a ⊢
    exact a
  refine ⟨⟨slots, tracks, pieces, nofun, ?_, fun _ => ⟨rfl, rfl⟩, room, by decide +kernel, .inr ⟨rfl, rfl, .inl rfl⟩⟩, rfl, rfl,
    by decide +kernel⟩
  intro (h : sound0.rc.run = .idle ∨ sound0.rc.run = .armed)
  rcases h with h | h <;> exact absurd h nofun

/-! ### Findings, merges, verdicts, fills, walks and tags -/

/-- A finding of an item at G0. -/
def found (item : Nat) (dev : Int) (loc : Coord) : Finding := { station := .g0, item := item, dev := dev, loc := loc }

/-- A zone of strand 0 with findings. -/
def zoneWith (fs : List Finding) : Zone := { zone 99 200 .opened with findings := fs }

/-- Four findings, the second and third of the smallest deviation. -/
def four0 : List Finding := [found 0 9 210, found 1 (-3) 220, found 2 3 230, found 3 7 240]

theorem test_finding_replaces : ((zoneWith four0).addFinding (found 1 4 250)).findings = [found 0 9 210, found 1 4 250, found 2 3 230, found 3 7 240]
    ∧ (zoneWith four0).addFinding (found 1 3 250) = zoneWith four0 := by decide +kernel
theorem test_finding_joins : (zoneWith [found 1 9 210]).addFinding (found 0 1 250) = zoneWith [found 1 9 210, found 0 1 250] := by decide +kernel
theorem test_finding_displaces : (zoneWith four0).addFinding (found 4 4 250) =
      { zoneWith [found 0 9 210, found 4 4 250, found 2 3 230, found 3 7 240] with truncated := true }
    ∧ (zoneWith four0).addFinding (found 4 3 250) = { zoneWith four0 with truncated := true } := by decide +kernel

/-- A DIM claim on the metal of the piece of sound0 and of the track above it, with a finding on the track. -/
def claim2 : Claim := { claim0 with x1 := 150, x2 := 300, severity := .scrap, finding := some (found 3 5 250) }

theorem test_claim_amends_piece : leaves (.conditionClaim (.arriving claim2)) arrived0 (fun t =>
    t.pt.pieces.map (fun p => (p.verdict, p.amended)) == [(.partialV, true)] && hasCause t.lp.alerts.pendingSet .amended) = true := by decide +kernel
theorem test_claim_amends_no_transit : leaves (.conditionClaim (.arriving claim2)) transit0 (fun t =>
    t.pt.pieces.map (fun p => (p.verdict, p.amended)) == [(.partialV, false)] && !hasCause t.lp.alerts.pendingSet .amended) = true := by decide +kernel
theorem test_finding_joins_zone : leaves (.conditionClaim (.arriving claim2)) run0 (fun t =>
    (t.track 0).map (fun z => (z.start, z.findings)) == [(200, [found 3 5 250]), (300, [])]) = true := by decide +kernel

/-- A GAP zone [200, 300) below the open zone. -/
def gapped0 : State :=
  let gap : Zone := { zoneWith [found 0 9 210] with key := { slot := 98, seq := 0 }, place := .closed 300, conds := condMask .gap }
  { run0 with ts := { run0.ts with tracks := (Vector.replicate 4 []).set 0 [gap, zone 99 300 .opened] } }

theorem test_claim_merges : leaves (.conditionClaim (.arriving { claim2 with x1 := 300, x2 := 400, action := .add .gap, severity := .none, finding := none })) gapped0
    (fun t => (t.track 0).map (fun z => (z.key.slot, z.start, z.conds, z.findings)) == [(98, 200, condMask .gap, [found 0 9 210]), (0, 400, 0, [])]) = true := by
  decide +kernel
theorem witness_claim_amends : sound0.pt.pieces[0]?.isSome = true ∧ sound0.pt.pieces.map (·.verdict) = [.prime] ∧ claim2.reaches sound0 250
    ∧ claim2.action ≠ .removeHeld ∧ (zone 1023 200 .opened).holds 250 = true ∧ sound0.walkZone 0 250 = some (zone 1023 200 .opened) := by
  unfold Claim.reaches; decide +kernel

theorem witness_fills : run0.rc.run ≠ .idle ∧ run0.line.cfg.dMK ≤ run0.tcu.L ∧ run0.ts.first[(0 : Strand)] ≤ 960
    ∧ run0.fillOf 0 = .valid (zone 99 200 .opened) none ∧ idle0.fillOf 0 = .empty ∧ run0.fillOf 1 = .empty
    ∧ ({ run0 with tcu := { run0.tcu with L := 39 } } : State).fillOf 0 = .empty
    ∧ ({ run0 with tcu := { run0.tcu with L := 239 } } : State).fillOf 0 = .empty
    ∧ ({ (two0 980) with tcu := { run0.tcu with L := 1019 } } : State).fillOf 0
      = .valid (zone 98 200 (.closed 980)) (some { start := 980, key := { slot := 99, seq := 0 }, marked := false })
    ∧ draining0.fillOf 0 = .empty := by decide +kernel
theorem witness_next_record : (two0 400).track 0 = [] ++ zone 98 200 (.closed 400) :: [zone 99 400 .opened] ∧ idle0.tps.active = none
    ∧ run0.tps.active = some { template := template0, generation := 1 } := by decide +kernel

theorem test_walk : sound0.walks 0 150 [(zone 1022 100 (.cut 200 { slot := 31, seq := 0 }), 150), (zone 1023 200 .opened, 200)] 200 :=
  ⟨rfl, rfl, rfl, rfl, rfl, rfl⟩
theorem test_walk_ends : (sound0.assemble 0 9 5 150 0).records.length = 2 ∧ (sound0.assemble 0 9 5 150 0).ends = some .none
    ∧ (sound0.assemble 0 1 5 150 0).ends = some .none ∧ (sound0.assemble 0 9 1 150 0).ends = none ∧ (sound0.assemble 0 9 5 50 3).ends = some .notFound
    ∧ (draining0.assemble 0 9 5 950 1).ends = some .none := by
  decide +kernel
theorem test_zone_record : (encZone { zoneWith four0 with conds := condMask .weld } 250).length = 72
    ∧ ((encZone { zoneWith four0 with conds := condMask .weld } 250).drop 4).take 10 = [0#8, 0#8, 32#8, 0#8, 255#8, 2#8, 2#8, 1#8, 0#8, 1#8]
    ∧ (encZone (zoneWith []) 250).drop 24 = [0#8, 0#8, 0#8, 250#8] ++ List.replicate 44 0#8 := by decide +kernel
theorem test_continuation : run0.continuation 0 (zone 99 200 .opened) = none ∧ run0.continuation 0 (zone 98 200 (.closed 400)) = some 400
    ∧ draining0.continuation 0 (zone 99 200 (.closed 950)) = none
    ∧ lastPiece0.continuation 0 (zone 98 100 (.cut 200 { slot := 2, seq := 0 })) = some 200
    ∧ ({ lastPiece0 with ts := { lastPiece0.ts with tracks := Vector.replicate 4 [] } } : State).continuation 0
      (zone 98 100 (.cut 200 { slot := 2, seq := 0 })) = none := by decide +kernel
theorem test_walk_refused : leaves (.walkZones 1 (.continue_ 1000)) run0 (ended .notFound []) = true
    ∧ leaves (.walkZones 0 (.continue_ 4294967296)) run0 (ended .range []) = true := by decide +kernel
theorem witness_zone_stands : zone 1023 200 .opened ∈ sound0.track 0 ∧ (∃ p ∈ sound0.pt.pieces, p.strand = 0 ∧ zone 1022 100 (.cut 200 { slot := 31, seq := 0 }) ∈ p.zones)
    ∧ sound0.heldZone 0 1000 = none ∧ sound0.walkZone 0 1000 = some (zone 1023 200 .opened) := by decide +kernel

theorem test_config : record0.config.dSAW = 50 ∧ record0.config.pullerMode = .double ∧ record0.config.aEnable = true ∧ record0.config.aMode = .x4
    ∧ record0.config.idlePolicy = .off ∧ hasStrand ({ record0 with markerEnables := 4 } : LineRecord).config.markerEnables 2 = true
    ∧ hasStrand ({ record0 with markerEnables := 4 } : LineRecord).config.markerEnables 1 = false := by decide +kernel
theorem test_report_of : run0.reportOf .g1 ((gaugeFrame [0xA5#8, 1#8, 0#8, 7#8, 1#8, 0x86#8, 0xA0#8])) = some (.flaw 0 7 100000)
    ∧ run0.reportOf .g1 (gaugeFrame [0xA5#8, 1#8, 0#8, 7#8, 1#8, 0x86#8, 0xA1#8]) = none
    ∧ run0.reportOf .g0 (gaugeFrame [0xA5#8, 0#8, 0#8, 11#8, 0xFF#8, 0xFF#8, 0xFE#8]) = some (.measure 0 11 (-2))
    ∧ run0.reportOf .g0 (gaugeFrame [0xA5#8, 0#8, 1#8, 11#8, 0#8, 0#8, 1#8]) = none ∧ run0.reportOf .g2 (gaugeFrame [0xA5#8, 3#8, 0#8, 0#8, 0#8, 0#8, 0#8]) = some .seeing
    ∧ (gaugeFrame [0xA5#8, 3#8, 0#8, 0#8, 0#8, 0#8, 0#8]).length = 9 := by decide +kernel
theorem test_tag : run0.tag .g1 .blind = { kind := .blind, coord := some 980, generation := none }
    ∧ idle0.tag .g0 .blind = { kind := .blind, coord := none, generation := none } ∧ (run0.tag .g2 (.measure 1 0 5)).generation = none
    ∧ (run0.tag .g2 (.measure 0 0 5)).generation = some 1 := by decide +kernel
theorem witness_reference : (run0.referenceAt (some 9)).target = template0.target ∧ run0.tps.ofGeneration (some 1) = some template0
    ∧ ({ run0 with tps := { run0.tps with previous := some { template := Template.defaults, generation := 9 } } } : State).tps.ofGeneration (some 9)
      = some Template.defaults := by decide +kernel
theorem test_sweep_points : run0.sweepPoint .g2 = some 970 ∧ draining0.sweepPoint .g0 = some 950 ∧ idle0.sweepPoint .g0 = none ∧ run0.sweeps .g0 = true
    ∧ run0.sweeps .g1 = true := by decide +kernel
theorem test_cut_drops_billet : leaves .cutDone { go0 with rc := { go0.rc with billets := [{ ordinal := 1, start := 0, stop := none, noChangeStops := false },
      { ordinal := 2, start := 150, stop := none, noChangeStops := false }] } } (fun t => t.rc.billets.map (·.ordinal) == [2]) = true := by decide +kernel

/-! ### Plans, POOL-LOW, look-ups, spans and lines -/

/-- DEAD and sound, the saw READY. -/
def soundDead0 : State := inRun sound0 .dead

/-- A span from below the end of the track of strand 0 to above it. -/
def ahead0 : Span := { strand := 0, first := .abs 300, second := .abs 1100 }

/-- The sound state with that span waiting. -/
def soundSpan0 : State := inPort sound0 (.dataIn { put0 with waiting := [ahead0] })

/-- Sound, with no piece: every piece slot free. -/
def soundBare0 : State :=
  { sound0 with ts := { sound0.ts with free := List.range 1023 }, pt := Pt.reset }

/-- RUNNING with a given number of zone slots free. -/
def pool (n : Nat) : State := { run0 with ts := { run0.ts with free := List.range n } }

/-- PLANNED, the threshold reached. -/
def reached0 : State := { planned0 with cps := { planned0.cps with plan := some 950 } }

/-- SAW-READY high. -/
def ready (s : State) : State := { s with pins := { s.pins with sawReady := true } }

/-- Whether a state has POOL-LOW pending. -/
def isLow (s : State) : Bool := hasCause s.lp.alerts.pendingSet .poolLow

/-- Whether the saw holds a plan at a coordinate. -/
def plansAt (x : Coord) (t : State) : Bool := t.cps.saw == .planned && t.cps.plan == some x

theorem witness_sound_dead : soundDead0.recordsSound ∧ soundDead0.rc.run = .dead ∧ soundDead0.cps.saw = .ready ∧ soundDead0.boundaryCoord 0 = 1000
    ∧ leaves (.pressRunRising .later) soundDead0 (fun t => (t.rc.future[(0 : Strand)]).ends == [1030, 1020] && plansAt 5200 t) = true := by
  refine ⟨⟨witness_recordsSound.1.1, sound0_tracks_dead, witness_recordsSound.1.2.2.1, nofun, ?_, fun _ => ⟨rfl, rfl⟩,
    witness_recordsSound.1.2.2.2.2.2.2⟩, rfl, rfl, rfl, by decide +kernel⟩
  intro (e : RunState.dead = .idle ∨ RunState.dead = .armed)
  rcases e with e | e <;> exact absurd e nofun
theorem witness_sound_span : soundSpan0.recordsSound ∧ soundSpan0.lp.port.waiting = 1 ∧ soundSpan0.checkSpan ahead0 = .ok (0, 300, 1100)
    ∧ (soundSpan0.rc.future[(0 : Strand)]).ends = [] ∧ leaves (.holdSpansSpanApply .claimFirst) soundSpan0 (fun t =>
      (t.rc.future[(0 : Strand)]).ends == [1100] && plansAt 60200 t) = true :=
  ⟨witness_recordsSound.1, rfl, rfl, rfl, by decide +kernel⟩
theorem witness_entry_above : ∀ e ∈ (soundHeld0.rc.future[(0 : Strand)]).ends, soundHeld0.boundaryCoord 0 < e := by decide +kernel
theorem test_press_starts_plans : leaves (.pressRunRising .later) (inRun (inSaw run0 .held) .armed) (plansAt 60200) = true
    ∧ leaves (.pressRunRising .later) (inRun { inSaw run0 .held with cps := { (inSaw run0 .held).cps with cutCounter := 65534 } } .armed) (fun t =>
      t.cps.saw == .ready && t.cps.noPlan == .count) = true := by decide +kernel
theorem test_release_and_clear_plan : leaves .sawRelease (inSaw run0 .held) (plansAt 60200) = true
    ∧ leaves .clearSawFault (inSaw go0 .fault) (fun t => plansAt 60200 t && t.ts.setAside == 0) = true
    ∧ leaves .sawReadyRising (inSaw run0 .return_) (plansAt 60200) = true := by decide +kernel
theorem test_cut_plans_anew : leaves .cutDone (ready go0) (plansAt 60950) = true ∧ leaves .cutDone (ready run0) (plansAt 60950) = true
    ∧ leaves .cutDone (ready full0) (plansAt 60400) = true := by decide +kernel
theorem test_changes_plan_anew : leaves .commitTemplate run0 (plansAt 60200) = true ∧ leaves (.endRun .later) run0 (fun t => t.cps.noPlan == .tail) = true
    ∧ leaves (.conditionClaim (.arriving claim1)) run0 (fun t => t.cps.saw == .planned) = true
    ∧ leaves (.boundary 0 1000 (condMask .weld) 1 1 false) run0 (fun t => t.cps.saw == .planned) = true
    ∧ leaves (.overrideZone { slot := 99, seq := 0 } 2) run0 (plansAt 60200) = true := by decide +kernel
theorem witness_change_in_window : run0.head ≤ 350 ∧ 350 ≤ run0.head + run0.activeTemplate.maxLen
    ∧ leaves (.conditionClaim (.arriving claim1)) run0 (fun t => ((t.walkZone 0 350).map (·.conds)) != ((run0.walkZone 0 350).map (·.conds))) = true := by
  decide +kernel
theorem test_handed_claim_taken : leaves (.conditionClaim (.handed .sweep)) { run0 with ts := { run0.ts with handed := [(.sweep, claim1)] } } (fun t =>
    t.ts.handed == [] && (t.track 0).map (·.start) == [200, 300, 400]) = true := by decide +kernel
theorem test_pool_low_at_reservation : leaves .goThreshold { reached0 with ts := (pool 17).ts } isLow = true
    ∧ leaves .goThreshold { reached0 with ts := (pool 18).ts } (fun t => t.cps.saw == .go && !isLow t) = true
    ∧ leaves .goThreshold { reached0 with ts := (pool 16).ts } (fun t => t.cps.saw == .go && !isLow t) = true := by decide +kernel
theorem test_pool_low_at_claim : leaves (.conditionClaim (.arriving claim1)) (pool 17) isLow = true
    ∧ leaves (.conditionClaim (.arriving claim1)) (pool 18) isLow = true
    ∧ leaves (.conditionClaim (.arriving { claim1 with x1 := 200 })) (pool 18) (fun t => !isLow t) = true
    ∧ leaves (.conditionClaim (.arriving claim1)) (pool 19) (fun t => !isLow t) = true
    ∧ leaves (.conditionClaim (.arriving claim1)) (pool 16) (fun t => !isLow t) = true := by decide +kernel
theorem test_pool_low_at_boundary : leaves (.boundary 0 1000 0 2 1 false) (pool 17) isLow = true
    ∧ leaves (.boundary 0 1000 0 2 1 false) (pool 18) (fun t => !isLow t) = true ∧ leaves (.boundary 0 200 0 2 1 false) (pool 17) (fun t => !isLow t) = true := by
  decide +kernel
theorem test_takes : ((pool 17).takeZone .nonMandatory).map (fun r => (r.1.slot, isLow r.2)) = some (0, true)
    ∧ ((pool 16).takeZone .nonMandatory).isNone = true ∧ ((pool 16).takeZone .mandatory).map (fun r => isLow r.2) = some false
    ∧ ((pool 0).takeZone .mandatory).isNone = true ∧ ((pool 17).takeZone .cut).isNone = true
    ∧ (go0.takeZone .cut).map (fun r => r.2.ts.setAside) = some 0 := by decide +kernel
theorem witness_sound_bare : soundBare0.recordsSound ∧ soundBare0.piecesOf 0 = [] := by
  have tracks : soundBare0.tracksSound := by
    have a := sound0_tracks
    simp only [State.tracksSound, State.track, State.head, soundBare0] at a ⊢
    exact a
  refine ⟨⟨⟨?_, ?_, ?_, nofun⟩, tracks, ⟨nofun, List.Pairwise.nil⟩, ?_⟩, rfl⟩
  · have f : soundBare0.ts.free = List.range 1023 := by simp only [soundBare0]
    have h : soundBare0.heldZones.map (·.key.slot) = [1023] := rfl
    have e : List.range 1024 = List.range 1023 ++ [1023] := List.range_succ
    rw [f, h, e]
  · have e : soundBare0.heldZones = [zone 1023 200 .opened] := rfl
    rw [e]
    intro z hz
    rw [List.mem_singleton.mp hz]
    exact Vector.getElem?_eq_some_iff.mpr ⟨by decide, Vector.getElem_replicate ..⟩
  · show (List.range 32 ++ []).Perm (List.range 32)
    rw [List.append_nil]
  · refine ⟨nofun, ?_, fun _ => ⟨rfl, rfl⟩, Nat.zero_le _, Nat.zero_le _, .inl ⟨rfl, rfl, nofun⟩⟩
    intro (e : RunState.running = .idle ∨ RunState.running = .armed)
    rcases e with e | e <;> exact absurd e nofun
theorem witness_looked_up : (sound0.pieceByKey { slot := 31, seq := 0 }).isSome = true ∧ sound0.pieceByKey { slot := 31, seq := 1 } = none
    ∧ (sound0.pieceAt 0 100).isSome = true ∧ (sound0.pieceAt 0 199).isSome = true ∧ sound0.pieceAt 0 200 = none ∧ sound0.pieceAt 1 150 = none
    ∧ (sound0.zoneByKey { slot := 1022, seq := 0 }).isSome = true ∧ sound0.zoneByKey { slot := 1022, seq := 1 } = none := by decide +kernel
theorem test_kind_at : (weldAt (.closed 800) none).kindAt 300 = some .weld ∧ (weldAt (.closed 800) none).kindAt 800 = none ∧ run0.kindAt 300 = none
    ∧ ({ run0 with ts := { run0.ts with tracks := (Vector.replicate 4 []).set 0 [{ zone 99 300 .opened with conds := condMask .weld ||| condMask .tailBand }] } } : State).kindAt
      300 = some .tailBand := by decide +kernel
theorem test_span_records : readSpans 2 ([2#8] ++ [0#8, 0#8, 0#8, 1#8, 44#8, 0#8, 0#8] ++ [1#8, 5#8, 0xFF#8, 0xFF#8, 0xFE#8, 0#8, 0#8]
      ++ [9#8] ++ [2#8, 0#8, 7#8, 0#8, 0#8, 0#8, 3#8] ++ [6#8, 0#8, 0#8, 0#8, 0#8, 0#8, 0#8]) =
    [{ strand := 2, first := .abs 300, second := .station 5 (-2) }, { strand := 9, first := .billet 7 3, second := .unknown 6 }] := by decide +kernel
theorem witness_span_records : ∀ sp ∈ [ahead0, { strand := 255, first := .station 5 (-2), second := .billet 7 3 }, { strand := 2, first := .unknown 6, second := .abs 4294967295 }],
    sp.strand < 256 ∧ sp.first.wf = true ∧ sp.second.wf = true := by decide +kernel
theorem test_start_run_lines : leaves .startRun (lined { idle0 with line := { valid := true, cfg := { idle0.line.cfg with idlePolicy := .retain, markerEnables := 15#4 } } } .empty
      { on := true, onPoint := some 5, isolated := true }) (fun t => t.swm.lines[(0 : Strand)] == MarkLine.off) = true
    ∧ leaves .startRun (lined { idle0 with line := { valid := true, cfg := { idle0.line.cfg with idlePolicy := .retain, markerEnables := 15#4 } } } .empty (onSince 5)) (fun t =>
      t.swm.lines[(0 : Strand)] == onSince 5) = true
    ∧ leaves .startRun (lined idle0 .empty (onSince 5)) (fun t => t.swm.lines[(0 : Strand)] == MarkLine.off) = true := by decide +kernel

/-! ### Replies, and removals that find nothing -/

/-- A REPLY of the idle port with nothing to show. -/
def bareReply : Reply :=
  { answer := .none, port := .ready, deviceFault := false, lastMark := false, contextHeld := false, overrun := false, alert := false,
    enable := false, lastError := .none, pendingSet := 0, data := [] }

/-- A port that holds a fault context with OVERRUN, its last error RANGE and STRAY pending, alerts enabled. -/
def faulty0 : State :=
  { State.reset with
    tps := { Tps.reset with deviceFault := true },
    lp := { Lp.reset with fault := some { fault0 with overrun := true }, lastError := .range,
                          alerts := { pendingSet := causeMask .stray, maskSet := 0, enable := true } } }

theorem test_reply_body : ({ bareReply with port := .busy, deviceFault := true, contextHeld := true, overrun := true, lastError := .stale,
                                            pendingSet := 4096, data := [7#8] }).body
    = [0#8, 1#8, 13#8, 4#8, 16#8, 0#8, 0#8, 1#8, 7#8] := by decide +kernel
theorem test_result_record : ({ name := .lock, error := .range, fields := [9#8] } : ResultRecord).bytes
    = [0x4C#8, 0x4F#8, 0x43#8, 0x4B#8] ++ List.replicate 12 0x20#8 ++ [2#8, 9#8] := by decide +kernel
theorem test_reply_frame : bareReply.frame.take 11 = [0x81#8, 0#8, 8#8] ++ List.replicate 8 0#8 ∧ bareReply.frame.length = 13 := by decide +kernel
theorem test_poll_shows_context : leaves .poll faulty0 (answered · fun r =>
    r.contextHeld && r.overrun && r.alert && r.enable && r.deviceFault && r.lastError == .range && r.pendingSet == causeMask .stray) = true := by decide +kernel
theorem witness_replies : (inPort idle0 (.dataOut (.snapshot .readLine))).lp.port = .dataOut (.snapshot .readLine)
    ∧ (∀ o, idle0.lp.port ≠ .dataOut o) ∧ (∀ p, idle0.lp.port ≠ .dataIn p) ∧ (inPort run0 (.dataIn put1)).lp.port = .dataIn put1 ∧ put1.waiting = []
    ∧ (inPort idle0 (.busy (.load 3))).lp.port.waiting = 0 ∧ put0.waiting ≠ [] ∧ (inPort run0 (.dataIn put0)).lp.port = .dataIn put0
    ∧ (List.replicate 1200 0#8).length = 1200 ∧ (List.replicate 16 0x41#8).length = 16 := by
  refine ⟨rfl, nofun, nofun, rfl, rfl, rfl, by decide +kernel, rfl, ?_, ?_⟩ <;> exact List.length_replicate
theorem test_release_finds_none : leaves (.releaseHold 0 (.abs 200) (.abs 900) .claimFirst) (two0 400) (fun t =>
    t.track 0 == (two0 400).track 0 && t.ts.free == (two0 400).ts.free) = true := by decide +kernel

/-- Strand 0 with two equal neighbours below a HELD zone, and an open zone of the next billet. -/
def equals0 : State :=
  let zones := [zone 96 200 (.closed 300), zone 97 300 (.closed 400), { zone 98 400 (.closed 600) with conds := condMask .held },
                { zone 99 600 .opened with billet := 2 }]
  { run0 with ts := { run0.ts with tracks := (Vector.replicate 4 []).set 0 zones } }

theorem test_release_merges_at_held : leaves (.releaseHold 0 (.abs 200) (.abs 950) .claimFirst) equals0 (fun t =>
    (t.track 0).map (fun z => (z.key.slot, z.start, z.conds)) == [(96, 200, 0), (97, 300, 0), (99, 600, 0)]) = true := by decide +kernel

/-- The removal of a release over [200, 900) of strand 0. -/
def removal0 : Claim := { claim0 with x1 := 200, x2 := 900, action := .removeHeld, severity := .none, finding := none }

theorem witness_removal_finds_none : removal0.reaches sound0 250 ∧ sound0.recordsSound
    ∧ (∀ (x : Coord) (z : Zone), sound0.walkZone 0 x = some z → hasCond z.conds .held = false) := by
  refine ⟨by unfold Claim.reaches; decide +kernel, witness_recordsSound.1, fun x z h => ?_⟩
  have held : ∀ y ∈ sound0.heldZones, hasCond y.conds .held = false := by decide +kernel
  unfold State.walkZone at h
  split at h
  · rename_i p hp
    exact held z (List.mem_append_right _ (List.mem_flatMap.mpr
      ⟨p, (List.mem_filter.mp (List.mem_of_find?_eq_some hp)).1, List.mem_of_find?_eq_some h⟩))
  · exact held z (List.mem_append_left _ (List.mem_flatten.mpr
      ⟨_, Vector.mem_toList_iff.mpr (Vector.getElem_mem (by decide)), List.mem_of_find?_eq_some h⟩))

end Sys2Proof.Tests
end

/-! PROOFS. HANDOVER (R10, R16, R17): the channels of the TCU under a write, a capture and a change of the strand puller. -/

namespace Sys2Proof

/-! ### The two channels -/

theorem Chan.eq_or_eq_other (p ch : Chan) : ch = p ∨ ch = p.other := by
  cases p <;> cases ch <;> simp [Chan.other]

theorem Chan.other_ne (p : Chan) : p.other ≠ p := by
  cases p <;> simp [Chan.other]

namespace Machine

/-! ### A channel of the TCU, read and written -/

theorem Tcu.chan_onChan (t : Tcu) (written read : Chan) (f : Channel → Channel) :
    (t.onChan written f).chan read = if written = read then f (t.chan read) else t.chan read := by
  cases written <;> cases read <;> rfl

@[simp] theorem Tcu.onChan_L (t : Tcu) (ch : Chan) (f : Channel → Channel) : (t.onChan ch f).L = t.L := by
  cases ch <;> rfl

@[simp] theorem Tcu.onChan_Lhw (t : Tcu) (ch : Chan) (f : Channel → Channel) : (t.onChan ch f).Lhw = t.Lhw := by
  cases ch <;> rfl

/-! ### A capture (R10) -/

@[simp] theorem Channel.captured_remainder (c : Channel) : c.captured.remainder = c.remainder := by
  unfold Channel.captured; split <;> rfl

theorem Channel.captured_of_enabled {c : Channel} (h : c.enable = true) :
    c.captured = { c with capture := c.count, capturePrev := c.capture } := if_pos h

theorem Channel.captured_of_disabled {c : Channel} (h : c.enable = false) : c.captured = c := by
  simp [Channel.captured, h]

/-- The TCU with both its channels captured. -/
def Tcu.captureBoth (t : Tcu) : Tcu := { t with chA := t.chA.captured, chB := t.chB.captured }

@[simp] theorem Tcu.captureBoth_chan (t : Tcu) (ch : Chan) : t.captureBoth.chan ch = (t.chan ch).captured := by
  cases ch <;> rfl

/-! ### The change of the strand puller (R16) -/

@[simp] theorem Tcu.handover_L (t : Tcu) : t.handover.L = t.L :=
  Tcu.onChan_L t.captureBoth t.puller.other _

@[simp] theorem Tcu.handover_Lhw (t : Tcu) : t.handover.Lhw = t.Lhw :=
  Tcu.onChan_Lhw t.captureBoth t.puller.other _

@[simp] theorem Tcu.handover_Lbase (t : Tcu) : t.handover.Lbase = t.L := rfl

@[simp] theorem Tcu.handover_puller (t : Tcu) : t.handover.puller = t.puller.other := rfl

/-- The channels after a handover are those captured, the new strand puller's with the old one's remainder. -/
theorem Tcu.handover_chan_eq_onChan (t : Tcu) (ch : Chan) : t.handover.chan ch =
    (t.captureBoth.onChan t.puller.other fun c => { c with remainder := (t.chan t.puller).remainder }).chan ch := by
  cases ch <;> rfl

/-- After a handover each channel is captured, and both hold the remainder of the old strand puller. -/
theorem Tcu.handover_chan (t : Tcu) (ch : Chan) :
    t.handover.chan ch = { (t.chan ch).captured with remainder := (t.chan t.puller).remainder } := by
  rw [Tcu.handover_chan_eq_onChan, Tcu.chan_onChan, Tcu.captureBoth_chan]
  obtain rfl | rfl := Chan.eq_or_eq_other t.puller ch
  · rw [if_neg (Chan.other_ne _), ← Channel.captured_remainder]
  · rw [if_pos rfl]

/-- The reference count is the capture that the new strand puller holds after the handover. -/
theorem Tcu.handover_refCount (t : Tcu) : t.handover.refCount = (t.handover.chan t.puller.other).capture := by
  rw [Tcu.handover_chan_eq_onChan]; rfl

@[simp] theorem Tcu.handover_chan_remainder (t : Tcu) (ch : Chan) :
    (t.handover.chan ch).remainder = (t.chan t.puller).remainder := by rw [Tcu.handover_chan]

theorem Tcu.handover_chan_of_enabled (t : Tcu) (ch : Chan) (h : (t.chan ch).enable = true) :
    t.handover.chan ch = { t.chan ch with capture := (t.chan ch).count, capturePrev := (t.chan ch).capture,
                                          remainder := (t.handover.chan ch).remainder } := by
  rw [Tcu.handover_chan_remainder, Tcu.handover_chan, Channel.captured_of_enabled h]

theorem Tcu.handover_chan_of_disabled (t : Tcu) (ch : Chan) (h : (t.chan ch).enable = false) :
    t.handover.chan ch = { t.chan ch with remainder := (t.handover.chan ch).remainder } := by
  rw [Tcu.handover_chan_remainder, Tcu.handover_chan, Channel.captured_of_disabled h]

theorem Tcu.handover_refCount_of_enabled (t : Tcu) (h : (t.chan t.puller.other).enable = true) :
    t.handover.refCount = (t.chan t.puller.other).count := by
  rw [Tcu.handover_refCount, Tcu.handover_chan_of_enabled t _ h]

/-! ### The command (R16, R17) -/

/-- DOUBLE mode while metal moves: where a rising edge of HANDOVER is taken. -/
def State.takesHandover (s : State) : Prop :=
  s.line.cfg.pullerMode = .double ∧ (s.rc.run = .running ∨ s.rc.run = .dead ∨ s.rc.run = .draining)

theorem State.takesHandover_iff (s : State) :
    s.takesHandover ↔ s.cfg.pullerMode = .double ∧ s.rc.run.moving = true :=
  and_congr_right' (moving_iff s.rc.run).symm

theorem exec_handover_eq (s : State) : exec .handover s = execHandover s := rfl

theorem exec_handover_of_takes {s : State} (h : s.takesHandover) :
    exec .handover s = .next { s with tcu := s.tcu.handover } := by
  rw [exec_handover_eq, execHandover, if_pos (s.takesHandover_iff.mp h)]
  rfl

theorem exec_handover_of_not_takes {s : State} (h : ¬ s.takesHandover) :
    exec .handover s = .next (s.withCause .stray) := by
  rw [exec_handover_eq, execHandover, if_neg (mt s.takesHandover_iff.mpr h)]
  rfl

/-- Settles O28: the two courses of HANDOVER, and the TCU that a taken one leaves, field by field and channel by channel. -/
theorem handoverChangesPullerAndKeepsL : Obligations.HandoverChangesPullerAndKeepsL := by
  intro s taken
  refine ⟨exec_handover_of_not_takes, fun h => ⟨_, exec_handover_of_takes h, rfl, ?_⟩⟩
  refine ⟨s.tcu.handover_L, s.tcu.handover_Lhw, s.tcu.handover_Lbase, s.tcu.handover_puller, ?_, ?_, ?_, ?_⟩
  · exact s.tcu.handover_chan_remainder s.tcu.puller.other
  · exact s.tcu.handover_chan_remainder s.tcu.puller
  · exact s.tcu.handover_refCount_of_enabled
  · exact fun ch => ⟨s.tcu.handover_chan_of_enabled ch, s.tcu.handover_chan_of_disabled ch⟩

end Machine

end Sys2Proof

/-! PROOFS. END-EYE (R152, R153): a cut set in transit that arrives, the head mark, and the stray edge. -/

namespace Sys2Proof

namespace Machine

/-! ### The command (R153) -/

/-- Some active strand has a track. -/
def State.hasActiveTrack (s : State) : Prop := ∃ st : Strand, st.val < s.rc.active ∧ s.track st ≠ []

theorem State.hasActiveTrack_iff (s : State) :
    s.hasActiveTrack ↔ s.activeStrands.any (fun st => !(s.track st).isEmpty) = true := by
  simp only [State.hasActiveTrack, List.any_eq_true, mem_activeStrands, Bool.not_eq_true', List.isEmpty_eq_false_iff]

/-- Metal moves, some active strand has a track and the head mark is clear: where an END-EYE edge with nothing in transit is the head. -/
def State.awaitsHead (s : State) : Prop :=
  (s.rc.run = .running ∨ s.rc.run = .dead ∨ s.rc.run = .draining) ∧ s.hasActiveTrack ∧ s.pt.headMark = false

theorem State.awaitsHead_iff (s : State) :
    s.awaitsHead ↔ s.rc.run.moving = true ∧ s.activeStrands.any (fun st => !(s.track st).isEmpty) = true
      ∧ s.pt.headMark = false :=
  and_congr (moving_iff s.rc.run).symm (and_congr_left' s.hasActiveTrack_iff)

theorem exec_endEye_eq (s : State) : exec .endEye s = execEndEye s := rfl

/-- The set at the front of the transit queue leaves it, its pieces become ARRIVED, and ARRIVED is raised. -/
theorem exec_endEye_of_transit {s : State} {n : Nat} {rest : List Nat} (h : s.pt.queue = n :: rest) :
    exec .endEye s =
      .next ({ s with pt := { s.pt with queue := rest, pieces := arriveSet n s.pt.pieces } }.withCause .arrived) := by
  rw [exec_endEye_eq, execEndEye, h]
  rfl

theorem exec_endEye_of_empty {s : State} (h : s.pt.queue = []) :
    exec .endEye s =
      .next (if s.rc.run.moving = true ∧ s.activeStrands.any (fun st => !(s.track st).isEmpty) = true ∧ s.pt.headMark = false
        then { s with pt := { s.pt with headMark := true } } else s.withCause .stray) := by
  rw [exec_endEye_eq, execEndEye, h]
  rfl

theorem exec_endEye_of_awaitsHead {s : State} (hq : s.pt.queue = []) (h : s.awaitsHead) :
    exec .endEye s = .next { s with pt := { s.pt with headMark := true } } := by
  rw [exec_endEye_of_empty hq, if_pos (s.awaitsHead_iff.mp h)]

theorem exec_endEye_of_not_awaitsHead {s : State} (hq : s.pt.queue = []) (h : ¬ s.awaitsHead) :
    exec .endEye s = .next (s.withCause .stray) := by
  rw [exec_endEye_of_empty hq, if_neg (mt s.awaitsHead_iff.mpr h)]

/-- Settles O48: END-EYE by the transit queue, and with the queue empty by whether the head of the metal is awaited. -/
theorem endEyeArrivesMarksOrStrays : Obligations.EndEyeArrivesMarksOrStrays := fun _ =>
  ⟨fun _ _ => exec_endEye_of_transit, exec_endEye_of_awaitsHead, exec_endEye_of_not_awaitsHead⟩

end Machine

end Sys2Proof
